-- ==== Sys2Proof/Word.lean ====
section
/-! DEFINITION. The word and byte types of the CMP encoder core, and its unit widths (00_scope.md R2, R8, R10). -/

namespace Sys2Proof

/-- One byte of the input, the body or the header. -/
abbrev Byte := BitVec 8

/-- One 32-bit register value, or one command word (R8: "Register width: 32 bits"). -/
abbrev Word := BitVec 32

/-- One unit: the byte list of UNIT_BYTES(w) consecutive input bytes, in input order. It is compared byte for byte and
never read as a number (R14, R52, R107). -/
abbrev CodeUnit := List Byte

/-- The unit width, the only option of the core: a closed set of three values (R2). -/
inductive Width where
  | byte
  | word
  | longword
  deriving DecidableEq, Repr

end Sys2Proof
end

