-- ==== Sys2Proof/Config.lean ====
section
/-! DEFINITION. The configuration of an implementation (00_scope.md R8): what R8 leaves open is an opaque constant without
a body, shaped so that every value R8 and the laws R113 and R116 admit is a value of the parameter, and no other (log entry 6). -/

namespace Sys2Proof

/-- The largest capacity and the largest empty body, 2^32 - 1 (R8). -/
abbrev Config.maxCapacity : Nat := 4294967295

/-- Free value behind `Config.ibufCap`. -/
opaque Config.ibufCapFree : Nat

/-- IBUF_CAP, the input buffer's capacity in bytes: any natural with 1 ≤ IBUF_CAP ≤ 2^32 - 1 (R8, D7). -/
def Config.ibufCap : Nat := Config.ibufCapFree % Config.maxCapacity + 1

/-- Free value behind `Config.emptyBody`. -/
opaque Config.emptyBodyFree : Width → List Byte

/-- The body of the empty input for each width. R113: it exists for every width; R8: it is no longer than OBUF_CAP,
hence no longer than 2^32 - 1. -/
def Config.emptyBody (w : Width) : List Byte := (Config.emptyBodyFree w).take Config.maxCapacity

/-- Free value behind `Config.scenarioBody`. -/
opaque Config.scenarioBodyFree : List Byte

/-- The units of the source's one content scenario, AA AA AA AA BB under Byte (R116). -/
def Config.scenarioUnits : List CodeUnit := [[0xAA], [0xAA], [0xAA], [0xAA], [0xBB]]

/-- The body of the source's one content scenario: R116 states that it succeeds with fewer than 5 bytes. -/
def Config.scenarioBody : List Byte := Config.scenarioBodyFree.take 4

/-- Free value behind `Config.bodyFn`, everywhere the laws R113 and R116 say nothing. -/
opaque Config.bodyFnFree : Width → List CodeUnit → Option (List Byte)

/-- BODY_FN, the body function (R112): total, a function of its two arguments alone, `none` for `fail` (R114). Its bytes
are the unknown historical framing and stay open; the laws R113 (the empty input succeeds) and R116 (the scenario
succeeds with fewer than 5 bytes) hold by its shape. -/
def Config.bodyFn (w : Width) (u : List CodeUnit) : Option (List Byte) :=
  if u = [] then some (Config.emptyBody w)
  else if w = .byte ∧ u = Config.scenarioUnits then some Config.scenarioBody
  else Config.bodyFnFree w u

/-- The least OBUF_CAP that R8 admits: at least 1, and at least the empty body of every width. -/
def Config.obufCapMin : Nat :=
  max 1 (max (Config.emptyBody .byte).length (max (Config.emptyBody .word).length (Config.emptyBody .longword).length))

/-- Free value behind `Config.obufCap`. -/
opaque Config.obufCapFree : Nat

/-- OBUF_CAP, the output buffer's capacity in bytes: any natural with 1 ≤ OBUF_CAP ≤ 2^32 - 1 that holds the empty body
of every width (R8, D8). -/
def Config.obufCap : Nat :=
  Config.obufCapMin + Config.obufCapFree % (Config.maxCapacity + 1 - Config.obufCapMin)

/-- DECODE, the external decoder, which takes a whole container; only the round-trip law names it (R8, R115, D27). -/
opaque Config.decode : List Byte → Option (List Byte)

/-- Free value behind `Config.base`. -/
opaque Config.baseIndex : Nat

/-- BASE, the platform's address of the register window, 64-byte aligned (R57). -/
def Config.base : Nat := 64 * Config.baseIndex

/-- FREE VALUE of the MODEL: how many host events the n-th accepted HDR or BODY waits before the engine completes it.
R5 and R262 fix only that it is finite (DESIGN CHOICE, log entry 3). -/
opaque Config.engineDelay : Nat → Nat

/-- LARGE_THRESHOLD, "the sole discriminator between header shapes" (R8, R143). -/
def Config.largeThreshold : Nat := 65535

/-- The open parameters of the reference decomposition of BODY_FN (R8, R118). `none` is the spec's ∞. -/
structure RefParams where
  minRun : Nat
  maxRun : Option Nat
  maxLit : Option Nat
  repCtl : Width → Nat → List Byte
  litCtl : Width → Nat → List Byte
  pre : Width → List Byte
  post : Width → List Byte
  encFail : Width → List CodeUnit → Bool

/-- The constraints of R8 and R119: MIN_RUN ≥ 2, MAX_RUN ≥ MIN_RUN, MAX_LIT ≥ 1. -/
abbrev RefParams.Wf (p : RefParams) : Prop :=
  2 ≤ p.minRun ∧ (∀ m ∈ p.maxRun, p.minRun ≤ m) ∧ (∀ m ∈ p.maxLit, 1 ≤ m)

end Sys2Proof
end

