-- ==== Sys2Proof/Syntax.lean ====
section
/-! DEFINITION. The syntax: one constructor of `Instr` per row of spec/opcode_table.json, and the encoded objects and host
events that carry them (30_encoding.md R70, R71; 43_register_access.md R180). -/

namespace Sys2Proof

/-- The sixteen word offsets of the register window: thirteen registers (R23) and three unmapped offsets (R199). -/
inductive Reg where
  | cmd | status | size | inData | inLen | outData | outLen | outPtr | hdrLen | hdrW0 | hdrW1 | capIn | capOut
  | unmapped34 | unmapped38 | unmapped3C
  deriving DecidableEq, Repr

/-- A host access to the register window, as R180 takes it: direction, byte offset, width in bytes and, for a write, its
data. It may be one the interface does not admit (R53, R200). -/
inductive Access where
  | read (off width : Nat)
  | write (off width : Nat) (data : Word)
  deriving DecidableEq, Repr

/-- The two kinds of encoded object that the core decodes (R70): a register access, and a command word, which is the
value of one 32-bit write to CMD (R82: a command mnemonic assembles to one `wr CMD, word`). -/
inductive Encoded where
  | access (a : Access)
  | command (w : Word)
  deriving DecidableEq, Repr

/-- What the outside world sends the core: an encoded object, or an assertion of the reset input RST (R65, R250). -/
inductive HostEvent where
  | issue (e : Encoded)
  | rst
  deriving DecidableEq, Repr

/-- One constructor per row of the opcode table, in the table's order. The rows of format CMD are command words, written
to CMD; the rows of format REGACC are register accesses, a write carrying its 32-bit data word. -/
inductive Instr where
  | hdrB | hdrW | hdrL
  | bodyB | bodyW | bodyL
  | clrIn | clrOut | rewind | srst
  | illegal (word : Word)
  | rdCmd | wrCmd (data : Word)
  | rdStatus | wrStatus (data : Word)
  | rdSize | wrSize (data : Word)
  | rdInData | wrInData (data : Word)
  | rdInLen | wrInLen (data : Word)
  | rdOutData | wrOutData (data : Word)
  | rdOutLen | wrOutLen (data : Word)
  | rdOutPtr | wrOutPtr (data : Word)
  | rdHdrLen | wrHdrLen (data : Word)
  | rdHdrW0 | wrHdrW0 (data : Word)
  | rdHdrW1 | wrHdrW1 (data : Word)
  | rdCapIn | wrCapIn (data : Word)
  | rdCapOut | wrCapOut (data : Word)
  | rdUnmapped34 | wrUnmapped34 (data : Word)
  | rdUnmapped38 | wrUnmapped38 (data : Word)
  | rdUnmapped3C | wrUnmapped3C (data : Word)
  deriving DecidableEq, Repr

end Sys2Proof
end

