-- ==== Sys2Proof/WellFormed.lean ====
section
/-! DEFINITION. Well-formed instructions: an ILLEGAL word is none of the ten legal command words (30_encoding.md R77, R78);
every other constructor is well-formed with any data word. -/

namespace Sys2Proof

/-- The ten legal command words, in the order of R77's table. -/
def legalCommandWords : List Word :=
  [0x00000001, 0x00000011, 0x00000031, 0x00000002, 0x00000012, 0x00000032, 0x00000003, 0x00000004, 0x00000005,
   0x0000000F]

/-- R164: the encoding of an illegal command word is the complement of the legal words; no other operand is restricted. -/
def Instr.wf : Instr → Bool
  | .illegal word => !legalCommandWords.contains word
  | .hdrB | .hdrW | .hdrL | .bodyB | .bodyW | .bodyL | .clrIn | .clrOut | .rewind | .srst => true
  | .rdCmd | .rdStatus | .rdSize | .rdInData | .rdInLen | .rdOutData | .rdOutLen | .rdOutPtr => true
  | .rdHdrLen | .rdHdrW0 | .rdHdrW1 | .rdCapIn | .rdCapOut | .rdUnmapped34 | .rdUnmapped38 | .rdUnmapped3C => true
  | .wrCmd _ | .wrStatus _ | .wrSize _ | .wrInData _ | .wrInLen _ | .wrOutData _ | .wrOutLen _ | .wrOutPtr _ => true
  | .wrHdrLen _ | .wrHdrW0 _ | .wrHdrW1 _ | .wrCapIn _ | .wrCapOut _ => true
  | .wrUnmapped34 _ | .wrUnmapped38 _ | .wrUnmapped3C _ => true

end Sys2Proof
end

