-- ==== Sys2Proof/Decode.lean ====
section
/-! DEFINITION. Decoding of register accesses (30_encoding.md R71; 43_register_access.md R180, R200) and of command words
(R72-R78), total and rejecting by name; the encoder; and the host's numbering of an opcode-table row's bits. -/

namespace Sys2Proof

/-- Why the interface does not admit an access (R53, R200). -/
inductive AccessError where
  /-- The access is not 4 bytes wide. -/
  | wrongWidth
  /-- The offset is not a multiple of 4. -/
  | misalignedOffset
  /-- The offset lies beyond 0x3C, outside the 64-byte window. -/
  | outsideWindow
  deriving DecidableEq, Repr

/-- The byte offset of a register in the window (R23, R199). -/
def Reg.offset : Reg → Nat
  | .cmd => 0x00 | .status => 0x04 | .size => 0x08 | .inData => 0x0C
  | .inLen => 0x10 | .outData => 0x14 | .outLen => 0x18 | .outPtr => 0x1C
  | .hdrLen => 0x20 | .hdrW0 => 0x24 | .hdrW1 => 0x28 | .capIn => 0x2C
  | .capOut => 0x30 | .unmapped34 => 0x34 | .unmapped38 => 0x38 | .unmapped3C => 0x3C

/-- The register at a word index, the offset divided by 4 (R23, R199). -/
def Reg.ofIndex : Nat → Option Reg
  | 0 => some .cmd | 1 => some .status | 2 => some .size | 3 => some .inData
  | 4 => some .inLen | 5 => some .outData | 6 => some .outLen | 7 => some .outPtr
  | 8 => some .hdrLen | 9 => some .hdrW0 | 10 => some .hdrW1 | 11 => some .capIn
  | 12 => some .capOut | 13 => some .unmapped34 | 14 => some .unmapped38 | 15 => some .unmapped3C
  | _ => none

/-- The admission test of R180 and R53, in R180's order: width, alignment, window. -/
def admitAccess (off width : Nat) : Except AccessError Reg :=
  if width ≠ 4 then .error .wrongWidth
  else if off % 4 ≠ 0 then .error .misalignedOffset
  else match Reg.ofIndex (off / 4) with
    | some r => .ok r
    | none => .error .outsideWindow

/-- The read row of a register (R180). -/
def Reg.readInstr : Reg → Instr
  | .cmd => .rdCmd | .status => .rdStatus | .size => .rdSize | .inData => .rdInData
  | .inLen => .rdInLen | .outData => .rdOutData | .outLen => .rdOutLen | .outPtr => .rdOutPtr
  | .hdrLen => .rdHdrLen | .hdrW0 => .rdHdrW0 | .hdrW1 => .rdHdrW1 | .capIn => .rdCapIn
  | .capOut => .rdCapOut | .unmapped34 => .rdUnmapped34 | .unmapped38 => .rdUnmapped38
  | .unmapped3C => .rdUnmapped3C

/-- The write row of a register, with the write's data word (R180). -/
def Reg.writeInstr (data : Word) : Reg → Instr
  | .cmd => .wrCmd data | .status => .wrStatus data | .size => .wrSize data | .inData => .wrInData data
  | .inLen => .wrInLen data | .outData => .wrOutData data | .outLen => .wrOutLen data | .outPtr => .wrOutPtr data
  | .hdrLen => .wrHdrLen data | .hdrW0 => .wrHdrW0 data | .hdrW1 => .wrHdrW1 data | .capIn => .wrCapIn data
  | .capOut => .wrCapOut data | .unmapped34 => .wrUnmapped34 data | .unmapped38 => .wrUnmapped38 data
  | .unmapped3C => .wrUnmapped3C data

/-- The access dispatch of R180: the instruction that an access is, or why it is refused (R200). -/
def decodeAccess : Access → Except AccessError Instr
  | .read off width => (admitAccess off width).map Reg.readInstr
  | .write off width data => (admitAccess off width).map (Reg.writeInstr data)

/-- What DECODE_CMD answers (R76). -/
inductive Command where
  | hdr (w : Width)
  | body (w : Width)
  | clrIn
  | clrOut
  | rewind
  | srst
  | illegal (detail : BitVec 4)
  deriving DecidableEq, Repr

/-- The width that the W field encodes; `10` is reserved (R74). -/
def decodeWidth (wf : BitVec 2) : Option Width :=
  if wf = 0b00 then some .byte
  else if wf = 0b01 then some .word
  else if wf = 0b11 then some .longword
  else none

/-- DECODE_CMD (R76), total on all 32-bit words; the order of its checks fixes the DETAIL of an illegal word. -/
def decodeCmd (c : Word) : Command :=
  let op := c.extractLsb' 0 4
  let wf := c.extractLsb' 4 2
  if c.extractLsb' 6 26 ≠ 0 then .illegal 3
  else if op = 0x1 then
    match decodeWidth wf with
    | some w => .hdr w
    | none => .illegal 2
  else if op = 0x2 then
    match decodeWidth wf with
    | some w => .body w
    | none => .illegal 2
  else if op = 0x3 then if wf = 0 then .clrIn else .illegal 2
  else if op = 0x4 then if wf = 0 then .clrOut else .illegal 2
  else if op = 0x5 then if wf = 0 then .rewind else .illegal 2
  else if op = 0xF then if wf = 0 then .srst else .illegal 2
  else .illegal 1

/-- The CMD row of the opcode table that a command word matches; ILLEGAL is the fallback row (R75, R77, R78). -/
def decodeCommand (c : Word) : Instr :=
  match decodeCmd c with
  | .hdr .byte => .hdrB
  | .hdr .word => .hdrW
  | .hdr .longword => .hdrL
  | .body .byte => .bodyB
  | .body .word => .bodyW
  | .body .longword => .bodyL
  | .clrIn => .clrIn
  | .clrOut => .clrOut
  | .rewind => .rewind
  | .srst => .srst
  | .illegal _ => .illegal c

/-- The decoder: an instruction for every admitted encoded object, and the reason for every refused one (R70, R200). -/
def decode : Encoded → Except AccessError Instr
  | .access a => decodeAccess a
  | .command c => .ok (decodeCommand c)

/-- A 4-byte read of a register, the only admitted width (R53). -/
def readOf (r : Reg) : Encoded := .access (.read r.offset 4)

/-- A 4-byte write of a register, the only admitted width (R53). -/
def writeOf (r : Reg) (data : Word) : Encoded := .access (.write r.offset 4 data)

/-- The encoder, from the tables of R77 (command words) and R23, R71 (descriptors). -/
def encode : Instr → Encoded
  | .hdrB => .command 0x00000001
  | .hdrW => .command 0x00000011
  | .hdrL => .command 0x00000031
  | .bodyB => .command 0x00000002
  | .bodyW => .command 0x00000012
  | .bodyL => .command 0x00000032
  | .clrIn => .command 0x00000003
  | .clrOut => .command 0x00000004
  | .rewind => .command 0x00000005
  | .srst => .command 0x0000000F
  | .illegal word => .command word
  | .rdCmd => readOf .cmd | .wrCmd data => writeOf .cmd data
  | .rdStatus => readOf .status | .wrStatus data => writeOf .status data
  | .rdSize => readOf .size | .wrSize data => writeOf .size data
  | .rdInData => readOf .inData | .wrInData data => writeOf .inData data
  | .rdInLen => readOf .inLen | .wrInLen data => writeOf .inLen data
  | .rdOutData => readOf .outData | .wrOutData data => writeOf .outData data
  | .rdOutLen => readOf .outLen | .wrOutLen data => writeOf .outLen data
  | .rdOutPtr => readOf .outPtr | .wrOutPtr data => writeOf .outPtr data
  | .rdHdrLen => readOf .hdrLen | .wrHdrLen data => writeOf .hdrLen data
  | .rdHdrW0 => readOf .hdrW0 | .wrHdrW0 data => writeOf .hdrW0 data
  | .rdHdrW1 => readOf .hdrW1 | .wrHdrW1 data => writeOf .hdrW1 data
  | .rdCapIn => readOf .capIn | .wrCapIn data => writeOf .capIn data
  | .rdCapOut => readOf .capOut | .wrCapOut data => writeOf .capOut data
  | .rdUnmapped34 => readOf .unmapped34 | .wrUnmapped34 data => writeOf .unmapped34 data
  | .rdUnmapped38 => readOf .unmapped38 | .wrUnmapped38 data => writeOf .unmapped38 data
  | .rdUnmapped3C => readOf .unmapped3C | .wrUnmapped3C data => writeOf .unmapped3C data

/-- The 4-byte access that a 7-bit descriptor names: DIR in bit 6, OFF in bits 5:0 (R71). -/
def accessOfDescriptor (d : BitVec 7) (data : Word) : Access :=
  if d.getLsbD 6 then .write (d.extractLsb' 0 6).toNat 4 data else .read (d.extractLsb' 0 6).toNat 4

/-- The descriptor of an access inside the window (R71). -/
def descriptorOf : Access → BitVec 7
  | .read off _ => BitVec.ofNat 7 (off % 64)
  | .write off _ _ => BitVec.ofNat 7 (64 + off % 64)

/-- The encoded object that the host's numbering of an opcode-table row's bits stands for: 32 bits are a command word
(format CMD); 7 bits, or 8 as whole bytes, are a descriptor with data word 0 (format REGACC); 40 bits are a descriptor in
the first byte with the 32-bit data word above it (R82: "its descriptor … plus its 32-bit data word").
PRESUMED (log entry 9). -/
def encodedOfTableWord (nbits w : Nat) : Option Encoded :=
  match nbits with
  | 32 => if w < 2 ^ 32 then some (.command (BitVec.ofNat 32 w)) else none
  | 7 | 8 => if w < 2 ^ 7 then some (.access (accessOfDescriptor (BitVec.ofNat 7 w) 0)) else none
  | 40 =>
    if w < 2 ^ 40 ∧ w % 2 ^ 8 < 2 ^ 7 then
      some (.access (accessOfDescriptor (BitVec.ofNat 7 w) (BitVec.ofNat 32 (w / 2 ^ 8))))
    else none
  | _ => none

/-- The instruction this decoder reads from an opcode-table row's bits; none where it refuses. -/
def decodeTableWord (nbits w : Nat) : Option Instr :=
  (encodedOfTableWord nbits w).bind fun e => (decode e).toOption

end Sys2Proof
end

