-- ==== Sys2Proof/Machine/State.lean ====
section
/-! DEFINITION. The state of the CMP encoder core (10_state.md), as plain data, its reset value (R41), and the reasons a
step can stop. -/

namespace Sys2Proof.Machine

/-- STATUS.RESULT; codes 4-7 are never produced (R26). -/
inductive Result where
  | success
  | misaligned
  | encFailed
  | illegal
  deriving DecidableEq, Repr

/-- LAT_OP, the accepted asynchronous command awaiting completion (R36). -/
inductive LatOp where
  | none
  | hdr
  | body
  deriving DecidableEq, Repr

/-- The fields of STATUS; its reserved bits read 0 and are not stored (R25). -/
structure Status where
  busy : Bool
  done : Bool
  ok : Bool
  result : Result
  detail : BitVec 4
  hdrValid : Bool
  outValid : Bool
  inOvf : Bool
  outUnf : Bool
  busyViol : Bool
  deriving DecidableEq, Repr

/-- The bytes of IBUF or OBUF: (index, byte) cells, indices strictly rising, no cell equal to what an unlisted index
reads as. -/
abbrev Memory := List Host.Cell

/-- What an unlisted index of IBUF or OBUF reads as. DESIGN CHOICE (log entry 4): R37 and R38 leave it unspecified, and no
access can read it. -/
abbrev Memory.blank : Byte := 0x00

/-- The core's state (R25-R39). By R44 the parameters, BASE and the host's command sequence are no part of it. -/
structure CoreState where
  /-- STATUS (R25). -/
  status : Status
  /-- SIZE (R28). -/
  size : Word
  /-- IN_LEN (R30), a count (log entry 8). -/
  inLen : Nat
  /-- OUT_LEN (R32). -/
  outLen : Nat
  /-- OUT_PTR (R33). -/
  outPtr : Nat
  /-- HDR_LEN (R34). -/
  hdrLen : Nat
  /-- HB, the header byte store (R39). -/
  hb : Vector Byte 8
  /-- LAT_OP (R36). -/
  latOp : LatOp
  /-- LAT_W (R36). -/
  latW : Width
  /-- LAT_SIZE (R36). -/
  latSize : Word
  /-- IBUF (R37). -/
  ibuf : Memory
  /-- OBUF (R38). -/
  obuf : Memory
  deriving DecidableEq, Repr

/-- The state of the whole system that a step takes: the core's state, and beside it the model's own fields for the host and
the schedule (log entries 1, 2, 3). -/
structure State extends CoreState where
  /-- MODEL: host events not yet performed, oldest first (R59; log entry 1). -/
  bus : List HostEvent
  /-- MODEL: the values the host's reads returned, newest first (R263; log entry 2). -/
  reads : List Word
  /-- MODEL: how many more host events precede the pending engine step (R262; log entry 3). -/
  engineWait : Nat
  /-- MODEL: how many engine delays have been drawn (log entry 3). -/
  draws : Nat
  deriving DecidableEq, Repr

/-- Why the machine stops with a fault: never. The core has no traps; every error is a completion record or a sticky flag
of STATUS (R220, R231), so no step raises a fault (log entry 11). -/
inductive Fault where
  deriving DecidableEq, Repr

/-- Why a step has no meaning. -/
inductive Refusal where
  /-- Raised by `exec` for an instruction that has no meaning yet; no arm raises it now. Safe. -/
  | notModelled (mnemonic : String)
  /-- Raised by `step` for an access that the interface does not admit: R53 and R200 demand the refusal ("A refused access
  has no step"; log entry 11). Safe. -/
  | accessRefused (reason : AccessError)
  deriving DecidableEq, Repr

/-- STATUS = 0x00000000 (R25, R41). -/
def Status.reset : Status where
  busy := false
  done := false
  ok := false
  result := .success
  detail := 0
  hdrValid := false
  outValid := false
  inOvf := false
  outUnf := false
  busyViol := false

/-- The state right after reset (R41), with no host event pending. -/
def State.reset : State where
  status := Status.reset
  size := 0
  inLen := 0
  outLen := 0
  outPtr := 0
  hdrLen := 0
  hb := #v[0, 0, 0, 0, 0, 0, 0, 0]
  latOp := .none
  latW := .byte
  latSize := 0
  ibuf := []
  obuf := []
  bus := []
  reads := []
  engineWait := 0
  draws := 0

end Sys2Proof.Machine
end

