-- ==== Sys2Proof/Machine/Flags.lean ====
section
/-! DEFINITION. The STATUS register: its codes, its value as a word, and every change a rule makes to its fields
(10_state.md R25-R27; 43_register_access.md R183, R184; 60_exceptions.md R224-R226). -/

namespace Sys2Proof.Machine

/-- The RESULT code (R26). -/
def Result.code : Result → BitVec 3
  | .success => 0
  | .misaligned => 1
  | .encFailed => 2
  | .illegal => 3

/-- A one-bit field placed at a bit number of a register. -/
def flagAt (b : Bool) (n : Nat) : Word := (BitVec.ofBool b).setWidth 32 <<< n

/-- RD_STATUS, the fields of STATUS as one word, every reserved bit 0 (R183). -/
def Status.toWord (st : Status) : Word :=
  flagAt st.busy 0 ||| flagAt st.done 1 ||| flagAt st.ok 2
    ||| st.result.code.setWidth 32 <<< 4 ||| st.detail.setWidth 32 <<< 8
    ||| flagAt st.hdrValid 16 ||| flagAt st.outValid 17
    ||| flagAt st.inOvf 24 ||| flagAt st.outUnf 25 ||| flagAt st.busyViol 26

/-- The STATUS fields that `complete` writes (R224). -/
def Status.complete (st : Status) (r : Result) (d : BitVec 4) : Status :=
  { st with busy := false, done := true, ok := decide (r = .success), result := r, detail := d }

/-- The STATUS fields that `begin` writes (R225). -/
def Status.accept (st : Status) : Status :=
  { st with busy := true, done := false, ok := false, result := .success, detail := 0 }

/-- WR_STATUS: a 1 in bit 24, 25 or 26 clears IN_OVF, OUT_UNF or BUSY_VIOL; every other bit is ignored (R184). -/
def Status.clearSticky (st : Status) (data : Word) : Status :=
  { st with
    inOvf := st.inOvf && !data.getLsbD 24
    outUnf := st.outUnf && !data.getLsbD 25
    busyViol := st.busyViol && !data.getLsbD 26 }

end Sys2Proof.Machine
end

