-- ==== Sys2Proof/Machine/Ops.lean ====
section
/-! DEFINITION. The named operations over the buffers and the registers: the buffer accesses, the completion primitive
(60_exceptions.md R224, the core's counterpart of taking an exception), the acceptance primitive (R225), RESET
(70_reset_and_hazards.md R251), the sticky flags (R226), and the BUSY test of a CMD write (42_control_commands.md R166). -/

namespace Sys2Proof.Machine

/-- The byte of a buffer at an index. -/
def Memory.read : Memory → Nat → Byte
  | [], _ => Memory.blank
  | (a, b) :: m, i => if i < a then Memory.blank else if i = a then b else Memory.read m i

/-- Write one byte of a buffer, keeping the canonical form: writing what an unlisted index reads as removes the cell. -/
def Memory.write : Memory → Nat → Byte → Memory
  | [], i, b => if b = Memory.blank then [] else [(i, b)]
  | (a, c) :: m, i, b =>
    if i < a then if b = Memory.blank then (a, c) :: m else (i, b) :: (a, c) :: m
    else if i = a then if b = Memory.blank then m else (i, b) :: m
    else (a, c) :: Memory.write m i b

/-- `BUF[i..i+|bs|) <- bs`. -/
def Memory.writeList (m : Memory) (i : Nat) : List Byte → Memory
  | [] => m
  | b :: bs => Memory.writeList (Memory.write m i b) (i + 1) bs

/-- `BUF[i..i+n)`, the bytes in index order. -/
def Memory.readList (m : Memory) (i : Nat) : Nat → List Byte
  | 0 => []
  | n + 1 => Memory.read m i :: Memory.readList m (i + 1) n

/-- The canonical form: indices strictly rising, no cell equal to what an unlisted index reads as. -/
abbrev Memory.wf (m : Memory) : Prop :=
  m.Pairwise (fun a b => a.1 < b.1) ∧ ∀ c ∈ m, c.2 ≠ Memory.blank

/-- Every listed index is below `n`: the buffer is an array of `n` bytes. -/
abbrev Memory.below (m : Memory) (n : Nat) : Prop := ∀ c ∈ m, c.1 < n

/-- The completion primitive (R224): it ends a command with a result and a detail, and writes LAT_OP, BUSY, DONE, RESULT,
DETAIL and OK, nothing else. -/
def State.complete (s : State) (r : Result) (d : BitVec 4) : State :=
  { s with latOp := .none, status := s.status.complete r d }

/-- The acceptance primitive `begin` (R225): it latches the command and its width, and sets BUSY. The model also draws how
many host events precede the engine's step (R262; log entry 3). -/
def State.accept (s : State) (op : LatOp) (w : Width) : State :=
  { s with
    latOp := op
    latW := w
    status := s.status.accept
    engineWait := Config.engineDelay s.draws
    draws := s.draws + 1 }

/-- RESET (R251): every register to its reset value (R41), an in-flight command abandoned. IBUF and OBUF are not written:
R37 and R38 name their only writers (DEDUCED, log entry 5). The host's own fields are not the core's. -/
def State.resetCore (s : State) : State :=
  { s with
    status := Status.reset
    size := 0
    inLen := 0
    outLen := 0
    outPtr := 0
    hdrLen := 0
    hb := #v[0, 0, 0, 0, 0, 0, 0, 0]
    latOp := .none
    latW := .byte
    latSize := 0 }

/-- BUSY_VIOL <- 1 (R166, R226). -/
def State.setBusyViol (s : State) : State := { s with status := { s.status with busyViol := true } }

/-- IN_OVF <- 1 (R187, R226). -/
def State.setInOvf (s : State) : State := { s with status := { s.status with inOvf := true } }

/-- OUT_UNF <- 1 (R191, R226). -/
def State.setOutUnf (s : State) : State := { s with status := { s.status with outUnf := true } }

/-- WR_STATUS on the state (R184). -/
def State.clearSticky (s : State) (data : Word) : State := { s with status := s.status.clearSticky data }

/-- A read returns a value to the host (R263; log entry 2). -/
def State.returnRead (s : State) (v : Word) : State := { s with reads := v :: s.reads }

/-- OUT_CLEAR (R102, R125): no body byte stays readable; OBUF itself is not written (R38; log entry 5). -/
def State.outClear (s : State) : State :=
  { s with status := { s.status with outValid := false }, outLen := 0, outPtr := 0 }

/-- The BUSY test of a write to CMD (other than SRST), SIZE or IN_DATA: while BUSY the write is ignored and sets BUSY_VIOL
(R166, R181, R186, R187, R228). -/
def State.unlessBusy (s : State) (f : State → State) : State :=
  if s.status.busy then s.setBusyViol else f s

end Sys2Proof.Machine
end

