-- ==== Sys2Proof/Machine/Operands.lean ====
section
/-! DEFINITION. Operand assembly (30_encoding.md R74, R79; 40_body_encoder.md R103, R105) and the packing of header bytes
into registers (10_state.md R34). -/

namespace Sys2Proof.Machine

/-- UNIT_BYTES (R8, R74). -/
def unitBytes : Width → Nat
  | .byte => 1
  | .word => 2
  | .longword => 4

/-- SIZE_CODE (R142). -/
def sizeCode : Width → Byte
  | .byte => 0x00
  | .word => 0x04
  | .longword => 0x0C

/-- The byte operand of an IN_DATA write: data[7:0] (R79, R187). -/
def byteOperand (data : Word) : Byte := data.extractLsb' 0 8

/-- The data operand of BODY: IBUF[0..IN_LEN), read at completion (R79, R102). -/
def rawInput (s : State) : List Byte := Memory.readList s.ibuf 0 s.inLen

/-- LENGTH_OK (R103). -/
def lengthOk : Width → Nat → Bool
  | .byte, _ => true
  | .word, n => n % 2 = 0
  | .longword, n => n % 4 = 0

/-- EXPECTED_MULTIPLE, the DETAIL of MISALIGNED (R27, R103); R103 leaves it undefined for Byte, whose length check never
fails (log entry 10). -/
def expectedMultiple : Width → BitVec 4
  | .byte => 0
  | .word => 2
  | .longword => 4

/-- UNITS: the input cut into units of UNIT_BYTES(w) bytes, in input order (R105, R52). -/
def units (w : Width) (raw : List Byte) : List CodeUnit :=
  (List.range (raw.length / unitBytes w)).map fun i => (raw.drop (i * unitBytes w)).take (unitBytes w)

/-- HDR_W0 = HB[0], HB[1], HB[2], HB[3], the lower index in the higher bits (R34). -/
def hdrWord0 (hb : Vector Byte 8) : Word := hb[0] ++ hb[1] ++ hb[2] ++ hb[3]

/-- HDR_W1 = HB[4], HB[5], HB[6], HB[7] (R34). -/
def hdrWord1 (hb : Vector Byte 8) : Word := hb[4] ++ hb[5] ++ hb[6] ++ hb[7]

/-- A count as a 32-bit register value: zext_32 (R189, R192, R193, R194, R197, R198). -/
def countWord (n : Nat) : Word := BitVec.ofNat 32 n

/-- A body byte as a 32-bit register value: zext_32 (R191). -/
def byteWord (b : Byte) : Word := b.setWidth 32

end Sys2Proof.Machine
end

