-- ==== Sys2Proof/Machine/Body.lean ====
section
/-! DEFINITION. The BODY family (40_body_encoder.md R100-R127): acceptance, completion over any body function and capacity,
the machine's own completion, and the meaning of BODY.B, BODY.W and BODY.L. -/

namespace Sys2Proof.Machine

/-- BODY_ACCEPT (R101). -/
def bodyAccept (w : Width) (s : State) : State := (s.accept .body w).outClear

/-- How a BODY command ends (R102). -/
inductive BodyOutcome where
  /-- MISALIGNED with DETAIL = `expected_multiple` (R103). -/
  | misaligned (detail : BitVec 4)
  /-- ENC_FAILED with DETAIL 0 (the body function failed, R114) or 1 (longer than OBUF_CAP, R123). -/
  | failed (detail : BitVec 4)
  /-- SUCCESS with these body bytes (R124). -/
  | body (b : List Byte)
  deriving DecidableEq, Repr

/-- The checks of BODY_COMPLETE in R102's order (R228), for a body function and an output capacity. -/
def bodyOutcome (fn : Width → List CodeUnit → Option (List Byte)) (cap : Nat) (w : Width) (raw : List Byte) :
    BodyOutcome :=
  if lengthOk w raw.length then
    match fn w (units w raw) with
    | none => .failed 0
    | some b => if cap < b.length then .failed 1 else .body b
  else .misaligned (expectedMultiple w)

/-- What BODY_COMPLETE writes for an outcome (R102, R124, R125). -/
def bodyFinish (o : BodyOutcome) (s : State) : State :=
  match o with
  | .misaligned d => s.outClear.complete .misaligned d
  | .failed d => s.outClear.complete .encFailed d
  | .body b =>
    let t := { s with
      obuf := Memory.writeList s.obuf 0 b
      outLen := b.length
      outPtr := 0
      status := { s.status with outValid := true } }
    t.complete .success 0

/-- BODY_COMPLETE for a body function and an output capacity (R102). -/
def bodyCompleteWith (fn : Width → List CodeUnit → Option (List Byte)) (cap : Nat) (s : State) : State :=
  bodyFinish (bodyOutcome fn cap s.latW (rawInput s)) s

/-- BODY_COMPLETE, the engine's step when LAT_OP = BODY (R102), with this implementation's BODY_FN and OBUF_CAP. -/
def bodyComplete (s : State) : State := bodyCompleteWith Config.bodyFn Config.obufCap s

/-- BODY.B (R100): the CMD write of 0x00000002. -/
def execBodyB (s : State) : Host.Outcome State Fault Refusal := .next (s.unlessBusy (bodyAccept .byte))

/-- BODY.W (R100): the CMD write of 0x00000012. -/
def execBodyW (s : State) : Host.Outcome State Fault Refusal := .next (s.unlessBusy (bodyAccept .word))

/-- BODY.L (R100): the CMD write of 0x00000032. -/
def execBodyL (s : State) : Host.Outcome State Fault Refusal := .next (s.unlessBusy (bodyAccept .longword))

end Sys2Proof.Machine
end

