-- ==== Sys2Proof/Machine/Header.lean ====
section
/-! DEFINITION. The HDR family (41_header_encoder.md R140-R150): the header bytes, acceptance, completion, and the meaning
of HDR.B, HDR.W and HDR.L. -/

namespace Sys2Proof.Machine

/-- HDRBYTES (R146): 4 bytes when the size is at most 65535, 8 bytes otherwise, the size big-endian. -/
def hdrBytes (s : Word) (w : Width) : List Byte :=
  if Config.largeThreshold < s.toNat then
    [0x00, sizeCode w, 0x00, 0x00, s.extractLsb' 24 8, s.extractLsb' 16 8, s.extractLsb' 8 8, s.extractLsb' 0 8]
  else [0x00, sizeCode w, s.extractLsb' 8 8, s.extractLsb' 0 8]

/-- `HB[0..8) <- h ++ repeat(0x00, 8 - |h|)` (R147). -/
def headerStore (h : List Byte) : Vector Byte 8 :=
  #v[h.getD 0 0, h.getD 1 0, h.getD 2 0, h.getD 3 0, h.getD 4 0, h.getD 5 0, h.getD 6 0, h.getD 7 0]

/-- HDR_ACCEPT (R141). -/
def hdrAccept (w : Width) (s : State) : State :=
  let t := s.accept .hdr w
  { t with
    latSize := s.size
    status := { t.status with hdrValid := false }
    hdrLen := 0
    hb := headerStore [] }

/-- HDR_COMPLETE, the engine's step when LAT_OP = HDR (R147). -/
def hdrComplete (s : State) : State :=
  let h := hdrBytes s.latSize s.latW
  let t := { s with hb := headerStore h, hdrLen := h.length, status := { s.status with hdrValid := true } }
  t.complete .success 0

/-- HDR.B (R140): the CMD write of 0x00000001. -/
def execHdrB (s : State) : Host.Outcome State Fault Refusal := .next (s.unlessBusy (hdrAccept .byte))

/-- HDR.W (R140): the CMD write of 0x00000011. -/
def execHdrW (s : State) : Host.Outcome State Fault Refusal := .next (s.unlessBusy (hdrAccept .word))

/-- HDR.L (R140): the CMD write of 0x00000031. -/
def execHdrL (s : State) : Host.Outcome State Fault Refusal := .next (s.unlessBusy (hdrAccept .longword))

end Sys2Proof.Machine
end

