-- ==== Sys2Proof/Machine/Control.lean ====
section
/-! DEFINITION. The control commands (42_control_commands.md R160-R166), the CMD write that carries every command
(43_register_access.md R181), and the meaning of CLRIN, CLROUT, REWIND, SRST and ILLEGAL. -/

namespace Sys2Proof.Machine

/-- CLRIN: IN_LEN <- 0, then complete; IBUF bytes are not erased (R160). -/
def clearInput (s : State) : State := { s with inLen := 0 }.complete .success 0

/-- CLROUT: the body result is discarded, then complete (R161). -/
def clearOutput (s : State) : State := s.outClear.complete .success 0

/-- REWIND: OUT_PTR <- 0, then complete (R162). -/
def rewindOutput (s : State) : State := { s with outPtr := 0 }.complete .success 0

/-- An illegal word: it completes at once with ILLEGAL and its DETAIL (R164). -/
def rejectWord (detail : BitVec 4) (s : State) : State := s.complete .illegal detail

/-- What each decoded command does when BUSY = 0 (R181). -/
def perform : Command → State → State
  | .hdr w, s => hdrAccept w s
  | .body w, s => bodyAccept w s
  | .clrIn, s => clearInput s
  | .clrOut, s => clearOutput s
  | .rewind, s => rewindOutput s
  | .srst, s => s.resetCore
  | .illegal d, s => rejectWord d s

/-- The command that a CMD write carries, for the command rows and for a WR.CMD access; none for every other access. -/
def commandOf : Instr → Option Command
  | .hdrB => some (.hdr .byte)
  | .hdrW => some (.hdr .word)
  | .hdrL => some (.hdr .longword)
  | .bodyB => some (.body .byte)
  | .bodyW => some (.body .word)
  | .bodyL => some (.body .longword)
  | .clrIn => some .clrIn
  | .clrOut => some .clrOut
  | .rewind => some .rewind
  | .srst => some .srst
  | .illegal c => some (decodeCmd c)
  | .wrCmd c => some (decodeCmd c)
  | _ => none

/-- WR_CMD (R181): while BUSY only the word 0x0000000F is performed, and any other word, undecoded, sets BUSY_VIOL (R166). -/
def cmdWrite (c : Word) (s : State) : State :=
  if s.status.busy then
    if c = 0x0000000F then s.resetCore else s.setBusyViol
  else perform (decodeCmd c) s

/-- CLRIN (R160): the CMD write of 0x00000003. -/
def execClrIn (s : State) : Host.Outcome State Fault Refusal := .next (s.unlessBusy clearInput)

/-- CLROUT (R161): the CMD write of 0x00000004. -/
def execClrOut (s : State) : Host.Outcome State Fault Refusal := .next (s.unlessBusy clearOutput)

/-- REWIND (R162): the CMD write of 0x00000005. -/
def execRewind (s : State) : Host.Outcome State Fault Refusal := .next (s.unlessBusy rewindOutput)

/-- SRST (R163): the CMD write of 0x0000000F, accepted whether BUSY is 0 or 1. -/
def execSrst (s : State) : Host.Outcome State Fault Refusal := .next s.resetCore

/-- ILLEGAL (R164): the CMD write of a word that DECODE_CMD gives `Illegal`. -/
def execIllegal (word : Word) (s : State) : Host.Outcome State Fault Refusal := .next (cmdWrite word s)

end Sys2Proof.Machine
end

