-- ==== Sys2Proof/Machine/Access.lean ====
section
/-! DEFINITION. The register accesses (43_register_access.md R180-R199): one meaning per row of format REGACC. -/

namespace Sys2Proof.Machine

/-- WR_SIZE (R186). -/
def writeSize (data : Word) (s : State) : State := s.unlessBusy fun t => { t with size := data }

/-- A push when BUSY = 0, for an input capacity: a full buffer drops the byte and sets IN_OVF (R187). -/
def pushByteWith (cap : Nat) (b : Byte) (s : State) : State :=
  if s.inLen = cap then s.setInOvf
  else { s with ibuf := Memory.write s.ibuf s.inLen b, inLen := s.inLen + 1 }

/-- WR_IN_DATA (R187). -/
def writeInData (data : Word) (s : State) : State :=
  s.unlessBusy (pushByteWith Config.ibufCap (byteOperand data))

/-- RD_OUT_DATA (R191): the next body byte, or 0 with OUT_UNF. -/
def readOutData (s : State) : State :=
  if s.status.outValid = true ∧ s.outPtr < s.outLen then
    { s with outPtr := s.outPtr + 1 }.returnRead (byteWord (Memory.read s.obuf s.outPtr))
  else s.setOutUnf.returnRead 0

/-- A write that the interface ignores: no state changes (R190, R199). -/
def ignoreWrite (_data : Word) (s : State) : State := s

/-- RD.CMD reads 0 (R182). -/
def execRdCmd (s : State) : Host.Outcome State Fault Refusal := .next (s.returnRead 0)

/-- WR.CMD issues the command word (R181). -/
def execWrCmd (data : Word) (s : State) : Host.Outcome State Fault Refusal := .next (cmdWrite data s)

/-- RD.STATUS (R183). -/
def execRdStatus (s : State) : Host.Outcome State Fault Refusal := .next (s.returnRead s.status.toWord)

/-- WR.STATUS clears the sticky bits written as 1, also while BUSY (R184). -/
def execWrStatus (data : Word) (s : State) : Host.Outcome State Fault Refusal := .next (s.clearSticky data)

/-- RD.SIZE (R185). -/
def execRdSize (s : State) : Host.Outcome State Fault Refusal := .next (s.returnRead s.size)

/-- WR.SIZE (R186). -/
def execWrSize (data : Word) (s : State) : Host.Outcome State Fault Refusal := .next (writeSize data s)

/-- RD.IN_DATA reads 0 (R188). -/
def execRdInData (s : State) : Host.Outcome State Fault Refusal := .next (s.returnRead 0)

/-- WR.IN_DATA pushes one byte (R187). -/
def execWrInData (data : Word) (s : State) : Host.Outcome State Fault Refusal := .next (writeInData data s)

/-- RD.IN_LEN (R189). -/
def execRdInLen (s : State) : Host.Outcome State Fault Refusal := .next (s.returnRead (countWord s.inLen))

/-- WR.IN_LEN is ignored (R190). -/
def execWrInLen (data : Word) (s : State) : Host.Outcome State Fault Refusal := .next (ignoreWrite data s)

/-- RD.OUT_DATA pops one body byte (R191). -/
def execRdOutData (s : State) : Host.Outcome State Fault Refusal := .next (readOutData s)

/-- WR.OUT_DATA is ignored (R190). -/
def execWrOutData (data : Word) (s : State) : Host.Outcome State Fault Refusal := .next (ignoreWrite data s)

/-- RD.OUT_LEN (R192). -/
def execRdOutLen (s : State) : Host.Outcome State Fault Refusal := .next (s.returnRead (countWord s.outLen))

/-- WR.OUT_LEN is ignored (R190). -/
def execWrOutLen (data : Word) (s : State) : Host.Outcome State Fault Refusal := .next (ignoreWrite data s)

/-- RD.OUT_PTR (R193). -/
def execRdOutPtr (s : State) : Host.Outcome State Fault Refusal := .next (s.returnRead (countWord s.outPtr))

/-- WR.OUT_PTR is ignored (R190). -/
def execWrOutPtr (data : Word) (s : State) : Host.Outcome State Fault Refusal := .next (ignoreWrite data s)

/-- RD.HDR_LEN (R194). -/
def execRdHdrLen (s : State) : Host.Outcome State Fault Refusal := .next (s.returnRead (countWord s.hdrLen))

/-- WR.HDR_LEN is ignored (R190). -/
def execWrHdrLen (data : Word) (s : State) : Host.Outcome State Fault Refusal := .next (ignoreWrite data s)

/-- RD.HDR_W0 (R195). -/
def execRdHdrW0 (s : State) : Host.Outcome State Fault Refusal := .next (s.returnRead (hdrWord0 s.hb))

/-- WR.HDR_W0 is ignored (R190). -/
def execWrHdrW0 (data : Word) (s : State) : Host.Outcome State Fault Refusal := .next (ignoreWrite data s)

/-- RD.HDR_W1 (R196). -/
def execRdHdrW1 (s : State) : Host.Outcome State Fault Refusal := .next (s.returnRead (hdrWord1 s.hb))

/-- WR.HDR_W1 is ignored (R190). -/
def execWrHdrW1 (data : Word) (s : State) : Host.Outcome State Fault Refusal := .next (ignoreWrite data s)

/-- RD.CAP_IN (R197). -/
def execRdCapIn (s : State) : Host.Outcome State Fault Refusal := .next (s.returnRead (countWord Config.ibufCap))

/-- WR.CAP_IN is ignored (R190). -/
def execWrCapIn (data : Word) (s : State) : Host.Outcome State Fault Refusal := .next (ignoreWrite data s)

/-- RD.CAP_OUT (R198). -/
def execRdCapOut (s : State) : Host.Outcome State Fault Refusal := .next (s.returnRead (countWord Config.obufCap))

/-- WR.CAP_OUT is ignored (R190). -/
def execWrCapOut (data : Word) (s : State) : Host.Outcome State Fault Refusal := .next (ignoreWrite data s)

/-- RD.UNMAPPED_34 reads 0 (R199). -/
def execRdUnmapped34 (s : State) : Host.Outcome State Fault Refusal := .next (s.returnRead 0)

/-- WR.UNMAPPED_34 is ignored (R199). -/
def execWrUnmapped34 (data : Word) (s : State) : Host.Outcome State Fault Refusal := .next (ignoreWrite data s)

/-- RD.UNMAPPED_38 reads 0 (R199). -/
def execRdUnmapped38 (s : State) : Host.Outcome State Fault Refusal := .next (s.returnRead 0)

/-- WR.UNMAPPED_38 is ignored (R199). -/
def execWrUnmapped38 (data : Word) (s : State) : Host.Outcome State Fault Refusal := .next (ignoreWrite data s)

/-- RD.UNMAPPED_3C reads 0 (R199). -/
def execRdUnmapped3C (s : State) : Host.Outcome State Fault Refusal := .next (s.returnRead 0)

/-- WR.UNMAPPED_3C is ignored (R199). -/
def execWrUnmapped3C (data : Word) (s : State) : Host.Outcome State Fault Refusal := .next (ignoreWrite data s)

end Sys2Proof.Machine
end

