-- ==== Sys2Proof/Machine/Dispatch.lean ====
section
/-! DEFINITION. The dispatch: one arm per row of spec/opcode_table.json, each one call of that instruction's meaning. -/

namespace Sys2Proof.Machine

/-- The meaning of every instruction. -/
def exec (i : Instr) (s : State) : Host.Outcome State Fault Refusal :=
  match i with
  | .hdrB => Sys2Proof.Machine.execHdrB s
  | .hdrW => Sys2Proof.Machine.execHdrW s
  | .hdrL => Sys2Proof.Machine.execHdrL s
  | .bodyB => Sys2Proof.Machine.execBodyB s
  | .bodyW => Sys2Proof.Machine.execBodyW s
  | .bodyL => Sys2Proof.Machine.execBodyL s
  | .clrIn => Sys2Proof.Machine.execClrIn s
  | .clrOut => Sys2Proof.Machine.execClrOut s
  | .rewind => Sys2Proof.Machine.execRewind s
  | .srst => Sys2Proof.Machine.execSrst s
  | .illegal word => Sys2Proof.Machine.execIllegal word s
  | .rdCmd => Sys2Proof.Machine.execRdCmd s
  | .wrCmd data => Sys2Proof.Machine.execWrCmd data s
  | .rdStatus => Sys2Proof.Machine.execRdStatus s
  | .wrStatus data => Sys2Proof.Machine.execWrStatus data s
  | .rdSize => Sys2Proof.Machine.execRdSize s
  | .wrSize data => Sys2Proof.Machine.execWrSize data s
  | .rdInData => Sys2Proof.Machine.execRdInData s
  | .wrInData data => Sys2Proof.Machine.execWrInData data s
  | .rdInLen => Sys2Proof.Machine.execRdInLen s
  | .wrInLen data => Sys2Proof.Machine.execWrInLen data s
  | .rdOutData => Sys2Proof.Machine.execRdOutData s
  | .wrOutData data => Sys2Proof.Machine.execWrOutData data s
  | .rdOutLen => Sys2Proof.Machine.execRdOutLen s
  | .wrOutLen data => Sys2Proof.Machine.execWrOutLen data s
  | .rdOutPtr => Sys2Proof.Machine.execRdOutPtr s
  | .wrOutPtr data => Sys2Proof.Machine.execWrOutPtr data s
  | .rdHdrLen => Sys2Proof.Machine.execRdHdrLen s
  | .wrHdrLen data => Sys2Proof.Machine.execWrHdrLen data s
  | .rdHdrW0 => Sys2Proof.Machine.execRdHdrW0 s
  | .wrHdrW0 data => Sys2Proof.Machine.execWrHdrW0 data s
  | .rdHdrW1 => Sys2Proof.Machine.execRdHdrW1 s
  | .wrHdrW1 data => Sys2Proof.Machine.execWrHdrW1 data s
  | .rdCapIn => Sys2Proof.Machine.execRdCapIn s
  | .wrCapIn data => Sys2Proof.Machine.execWrCapIn data s
  | .rdCapOut => Sys2Proof.Machine.execRdCapOut s
  | .wrCapOut data => Sys2Proof.Machine.execWrCapOut data s
  | .rdUnmapped34 => Sys2Proof.Machine.execRdUnmapped34 s
  | .wrUnmapped34 data => Sys2Proof.Machine.execWrUnmapped34 data s
  | .rdUnmapped38 => Sys2Proof.Machine.execRdUnmapped38 s
  | .wrUnmapped38 data => Sys2Proof.Machine.execWrUnmapped38 data s
  | .rdUnmapped3C => Sys2Proof.Machine.execRdUnmapped3C s
  | .wrUnmapped3C data => Sys2Proof.Machine.execWrUnmapped3C data s

end Sys2Proof.Machine
end

