-- ==== Sys2Proof/Machine/Engine.lean ====
section
/-! DEFINITION. The engine's own step (10_state.md R36) and whose turn the next step is (20_memory.md R56, R59;
60_exceptions.md R229; 70_reset_and_hazards.md R262). -/

namespace Sys2Proof.Machine

/-- The engine's step: the completion rule of the latched command, one atomic transition (R36, R102, R147). -/
def engineStep (s : State) : State :=
  match s.latOp with
  | .none => s
  | .hdr => hdrComplete s
  | .body => bodyComplete s

/-- The engine's drawn delay has run out while a command is latched (R262; log entry 3). -/
def engineReady (s : State) : Bool := decide (s.latOp ≠ .none) && decide (s.engineWait = 0)

/-- What happens next in the one total order of host accesses and engine steps (R59). -/
inductive Turn where
  /-- The engine completes the latched command. -/
  | engine
  /-- Nothing is enabled: no host event is pending and LAT_OP = NONE (R239). -/
  | idle
  /-- The platform asserts RST, in this state. -/
  | rst (t : State)
  /-- The host's access is this instruction, performed in this state. -/
  | host (i : Instr) (t : State)
  /-- The host's access is refused. -/
  | refused (reason : AccessError)
  deriving DecidableEq, Repr

/-- The state in which the first host event is performed: the event is taken off the host's sequence, and a pending engine
step comes one event nearer. -/
def takeEvent (rest : List HostEvent) (s : State) : State := { s with bus := rest, engineWait := s.engineWait - 1 }

/-- Whose turn it is: the engine's when its delay has run out or no host event is pending, otherwise the host's. -/
def nextTurn (s : State) : Turn :=
  match s.bus with
  | [] => if s.latOp = .none then .idle else .engine
  | e :: rest =>
    if engineReady s then .engine
    else
      match e with
      | .rst => .rst (takeEvent rest s)
      | .issue enc =>
        match decode enc with
        | .ok i => .host i (takeEvent rest s)
        | .error r => .refused r

/-- The host issues an encoded object as its next event, before any it has pending and before a pending engine step. -/
def placeEvent (e : Encoded) (s : State) : State :=
  { s with
    bus := .issue e :: s.bus
    engineWait := if s.latOp = .none then s.engineWait else max 1 s.engineWait }

/-- The object an opcode-table row's bits stand for, as the host's next event; bits that stand for none place nothing. -/
def placeTableWord (nbits w : Nat) (s : State) : State :=
  match encodedOfTableWord nbits w with
  | some e => placeEvent e s
  | none => s

end Sys2Proof.Machine
end

