-- ==== Sys2Proof/Machine/Step.lean ====
section
/-! DEFINITION. One step of the system: the next event in the one total order of host events and engine steps
(20_memory.md R56, R59). -/

namespace Sys2Proof.Machine

/-- The step: the engine completes, the platform resets, or the host's next access is performed or refused; with nothing
enabled all state is retained (R239). -/
def step (s : State) : Host.Outcome State Fault Refusal :=
  match nextTurn s with
  | .engine => .next (engineStep s)
  | .idle => .next s
  | .rst t => .next t.resetCore
  | .host i t => exec i t
  | .refused r => .refused (.accessRefused r)

/-- The state with an opcode-table row's instruction as the host's next event, so that the very next step runs it. -/
def State.withFetchWord (s : State) (nbits w : Nat) : State := placeTableWord nbits w s

end Sys2Proof.Machine
end

