-- ==== Sys2Proof/Machine/HostSide.lean ====
section
/-! DEFINITION. The host's side of the interface: accesses at absolute addresses (20_memory.md R57; 00_scope.md R12) and
the expansions of the assembler's pseudo-instructions (30_encoding.md R82, R83). -/

namespace Sys2Proof.Machine

/-- The offset that an absolute address selects, where it lies in the 64-byte window at BASE (R57; log entry 12). -/
def windowOffset (addr : Nat) : Option Nat :=
  if Config.base ≤ addr ∧ addr < Config.base + 64 then some (addr - Config.base) else none

/-- MemRead(addr, n): the host event it is for the core, where it reaches the window (R12, R57). -/
def hostRead (addr n : Nat) : Option HostEvent :=
  (windowOffset addr).map fun off => .issue (.access (.read off n))

/-- MemWrite(addr, n, v): the host event it is for the core, where it reaches the window (R12, R57). -/
def hostWrite (addr n : Nat) (v : Word) : Option HostEvent :=
  (windowOffset addr).map fun off => .issue (.access (.write off n v))

/-- `rd REG` (R82). -/
def rd (r : Reg) : HostEvent := .issue (readOf r)

/-- `wr REG, value` (R82). -/
def wr (r : Reg) (v : Word) : HostEvent := .issue (writeOf r v)

/-- A command mnemonic, one `wr CMD, word` (R82). -/
def cmd (c : Word) : HostEvent := .issue (.command c)

/-- `push b0, b1, …`: one IN_DATA write per byte, in order (R83). -/
def pushBytes (bs : List Byte) : List HostEvent := bs.map fun b => wr .inData (byteWord b)

/-- `n` reads of STATUS: `poll` repeats the read until it returns BUSY = 0, which is the host's own loop (R83). -/
def pollTimes (n : Nat) : List HostEvent := List.replicate n (rd .status)

/-- `readhdr` (R83). -/
def readHdr : List HostEvent := [rd .hdrLen, rd .hdrW0, rd .hdrW1]

/-- `readout` for a body of `n` bytes: OUT_LEN, then n reads of OUT_DATA (R83). -/
def readOut (n : Nat) : List HostEvent := rd .outLen :: List.replicate n (rd .outData)

/-- `clrerr` (R83). -/
def clrErr : List HostEvent := [wr .status 0x07000000]

/-- The word of `hdr.<x>` (R77). -/
def hdrCommand : Width → Word
  | .byte => 0x00000001
  | .word => 0x00000011
  | .longword => 0x00000031

/-- The word of `body.<x>` (R77). -/
def bodyCommand : Width → Word
  | .byte => 0x00000002
  | .word => 0x00000012
  | .longword => 0x00000032

/-- `encode.<x> bytes` with `n` and `m` polls (R83). -/
def encodeSession (w : Width) (bs : List Byte) (n m : Nat) : List HostEvent :=
  [cmd 0x00000003] ++ pushBytes bs ++ [wr .size (countWord bs.length), cmd (hdrCommand w)] ++ pollTimes n
    ++ [cmd (bodyCommand w)] ++ pollTimes m

end Sys2Proof.Machine
end

