-- ==== Sys2Proof/Machine/Reference.lean ====
section
/-! DEFINITION. Runs and segments (40_body_encoder.md R106-R109) and the optional reference decomposition of BODY_FN
(R118-R121) over its open parameters. The machine itself uses the opaque BODY_FN (log entry 7). -/

namespace Sys2Proof.Machine

/-- RUNS: the maximal runs of a unit sequence as (value, length) pairs, left to right (R106). -/
def runs : List CodeUnit → List (CodeUnit × Nat)
  | [] => []
  | v :: us =>
    match runs us with
    | [] => [(v, 1)]
    | (v', n) :: rest => if v = v' then (v, n + 1) :: rest else (v, 1) :: (v', n) :: rest

/-- A piece of the body: a repeat segment or a literal segment (R108). -/
inductive Segment where
  | rep (v : CodeUnit) (c : Nat)
  | lit (us : List CodeUnit)
  deriving DecidableEq, Repr

/-- The units a segment stands for (R108). -/
def Segment.expand : Segment → List CodeUnit
  | .rep v c => List.replicate c v
  | .lit us => us

/-- `min(x, MAX)`, where `none` is ∞ (R119). -/
def atMost (max : Option Nat) (n : Nat) : Nat :=
  match max with
  | none => n
  | some m => min n m

/-- FLUSH with fuel: a literal span cut into literal segments of at most MAX_LIT units, from its left (R119). -/
def flushFuel (p : RefParams) : Nat → List CodeUnit → List Segment
  | 0, _ => []
  | _ + 1, [] => []
  | fuel + 1, u :: us =>
    let m := atMost p.maxLit (u :: us).length
    .lit ((u :: us).take m) :: flushFuel p fuel ((u :: us).drop m)

/-- FLUSH (R119): as many rounds as the span has units are enough, since each takes at least one. -/
def flush (p : RefParams) (lit : List CodeUnit) : List Segment := flushFuel p lit.length lit

/-- The `while L >= MIN_RUN` loop of SEG with fuel: the counts of a run's repeat segments, and the remainder that joins the
literal span (R119). -/
def chopFuel (p : RefParams) : Nat → Nat → List Nat × Nat
  | 0, n => ([], n)
  | fuel + 1, n =>
    if p.minRun ≤ n then
      let c := atMost p.maxRun n
      let r := chopFuel p fuel (n - c)
      (c :: r.1, r.2)
    else ([], n)

/-- A run of length `n` cut into repeat counts and a remainder (R119): `n` rounds are enough, since each takes at least
MIN_RUN units. -/
def chop (p : RefParams) (n : Nat) : List Nat × Nat := chopFuel p n n

/-- SEG's loop over the runs, with the literal span gathered so far (R119). -/
def segFrom (p : RefParams) : List CodeUnit → List (CodeUnit × Nat) → List Segment
  | lit, [] => flush p lit
  | lit, (v, n) :: rest =>
    match chop p n with
    | ([], r) => segFrom p (lit ++ List.replicate r v) rest
    | (c :: cs, r) =>
      flush p lit ++ (c :: cs).map (Segment.rep v) ++ segFrom p (List.replicate r v) rest

/-- SEG (R119). -/
def seg (p : RefParams) (u : List CodeUnit) : List Segment := segFrom p [] (runs u)

/-- EMIT: a segment's control bytes, then its data (R120, R121). -/
def emit (p : RefParams) (w : Width) : Segment → List Byte
  | .rep v c => p.repCtl w c ++ v
  | .lit us => p.litCtl w us.length ++ us.flatten

/-- BODY_FN_ref (R118). -/
def bodyFnRef (p : RefParams) (w : Width) (u : List CodeUnit) : Option (List Byte) :=
  if p.encFail w u then none
  else some (p.pre w ++ ((seg p u).map (emit p w)).flatten ++ p.post w)

/-- The test instance T (92_eei_decisions.md D34). It is invented for test vectors and is not the historical format. -/
def instanceT : RefParams where
  minRun := 2
  maxRun := some 127
  maxLit := some 127
  repCtl _ c := [BitVec.ofNat 8 (0x80 + c)]
  litCtl _ m := [BitVec.ofNat 8 m]
  pre _ := []
  post _ := []
  encFail _ _ := false

end Sys2Proof.Machine
end

