-- ==== Sys2Proof/Machine/Relation.lean ====
section
/-! DEFINITION. The step relation on the core's state alone (10_state.md R44): the event, and so the host's command sequence,
is its argument. It fixes no schedule: every order of host events and engine steps that 20_memory.md R59 and
60_exceptions.md R229 admit is a list of events. `step` follows one such order (Laws/Relation.lean). -/

namespace Sys2Proof.Machine

/-- One event of the one total order of R59: the engine's step, or an event from the host. -/
inductive Event where
  | engine
  | host (e : HostEvent)
  deriving DecidableEq, Repr

/-- One host event performed: the reset input (R250), or an access with its meaning, refused where it has none (R200). -/
def hostStep (e : HostEvent) (s : State) : Host.Outcome State Fault Refusal :=
  match e with
  | .rst => .next s.resetCore
  | .issue enc =>
    match decode enc with
    | .ok i => exec i s
    | .error r => .refused (.accessRefused r)

/-- The core's state with nothing of the model's own beside it: no host event pending and no value read. -/
def CoreState.alone (c : CoreState) : State := { c with bus := [], reads := [], engineWait := 0, draws := 0 }

/-- The step relation of the core: the state after an event and the value it returns to the host, if it is a read. There is
none where the event has no step: an engine step with LAT_OP = NONE (R36), or a refused access (R53, R200). -/
def coreStep (e : Event) (c : CoreState) : Option (CoreState × Option Word) :=
  match e with
  | .engine => if c.latOp = .none then none else some ((engineStep c.alone).toCoreState, none)
  | .host h =>
    match hostStep h c.alone with
    | .next t => some (t.toCoreState, t.reads.head?)
    | _ => none

/-- A run of the core over a list of events, the command sequence among them: the state it ends in and the values the host
read, oldest first (R263); none where an event has no step. -/
def coreRun : List Event → CoreState → Option (CoreState × List Word)
  | [], c => some (c, [])
  | e :: es, c =>
    match coreStep e c with
    | none => none
    | some (d, v) =>
      match coreRun es d with
      | none => none
      | some (f, vs) => some (f, v.toList ++ vs)

/-- The host's part of a list of events, in order. -/
def hostEvents (es : List Event) : List HostEvent :=
  es.filterMap fun
    | .engine => none
    | .host e => some e

end Sys2Proof.Machine
end

