-- ==== Sys2Proof/Safety.lean ====
section
/-! DEFINITION. The invariants (10_state.md R40), what a session may observe (70_reset_and_hazards.md R263, R264), the
host's duties (R254, R255), and the laws of the body function (40_body_encoder.md R113-R116). -/

namespace Sys2Proof

open Sys2Proof.Machine

/-- The invariants of R40, one field per line of R40, and the forms of the two buffers. -/
structure Safety.Inv (s : State) : Prop where
  inLen_le : s.inLen ≤ Config.ibufCap
  outPtr_le : s.outPtr ≤ s.outLen
  outLen_le : s.outLen ≤ Config.obufCap
  outInvalid : s.status.outValid = false → s.outLen = 0 ∧ s.outPtr = 0
  hdrInvalid : s.status.hdrValid = false ↔ s.hdrLen = 0
  hbInvalid : s.status.hdrValid = false → s.hb = #v[0, 0, 0, 0, 0, 0, 0, 0]
  hbSmall : s.hdrLen = 4 → s.hb[4] = 0 ∧ s.hb[5] = 0 ∧ s.hb[6] = 0 ∧ s.hb[7] = 0
  hdrLen_mem : s.hdrLen = 0 ∨ s.hdrLen = 4 ∨ s.hdrLen = 8
  busy_iff : s.status.busy = true ↔ s.latOp ≠ .none
  busyRecord : s.status.busy = true →
    s.status.done = false ∧ s.status.ok = false ∧ s.status.result = .success ∧ s.status.detail = 0
  ok_iff : s.status.ok = true ↔ s.status.done = true ∧ s.status.result = .success
  bodyPending : s.latOp = .body → s.status.outValid = false
  hdrPending : s.latOp = .hdr → s.status.hdrValid = false
  ibufWf : Memory.wf s.ibuf
  obufWf : Memory.wf s.obuf
  ibufBelow : Memory.below s.ibuf Config.ibufCap
  obufBelow : Memory.below s.obuf Config.obufCap

/-- The core's part of a state: the model's own fields for the host and the schedule set aside (log entries 1, 2, 3). -/
def Safety.core (s : State) : State := { s with bus := [], reads := [], engineWait := 0, draws := 0 }

/-- The core's registers and latches: the contents of IBUF and OBUF, which no access can read as such, set aside too (R41:
"unspecified; unobservable"). -/
def Safety.registers (s : State) : State := { Safety.core s with ibuf := [], obuf := [] }

/-- The STATUS fields of a completed command beside those that completion leaves alone (R224). -/
def Safety.completed (st : Status) (r : Result) (d : BitVec 4) : Status :=
  { st with busy := false, done := true, ok := decide (r = .success), result := r, detail := d }

/-- The STATUS fields of an accepted command beside those that acceptance leaves alone (R225). -/
def Safety.accepted (st : Status) : Status :=
  { st with busy := true, done := false, ok := false, result := .success, detail := 0 }

/-- BE_N(v): the N-byte big-endian encoding, most significant byte first (R11). -/
def Safety.bigEndian : Nat → Nat → List Byte
  | 0, _ => []
  | n + 1, v => BitVec.ofNat 8 (v / 256 ^ n) :: Safety.bigEndian n v

/-- The STATUS record of R27: every RESULT has only the DETAIL values that R27's table gives it. -/
def Safety.RecordLegal (st : Status) : Prop :=
  match st.result with
  | .success => st.detail = 0
  | .misaligned => st.detail = 2 ∨ st.detail = 4
  | .encFailed => st.detail = 0 ∨ st.detail = 1
  | .illegal => st.detail = 1 ∨ st.detail = 2 ∨ st.detail = 3

/-- The header bytes HB[0..HDR_LEN) (R264). -/
def Safety.headerBytes (s : State) : List Byte := s.hb.toList.take s.hdrLen

/-- The body bytes OBUF[0..OUT_LEN), as the OUT_DATA reads return them (R264). -/
def Safety.bodyBytes (s : State) : List Byte := Memory.readList s.obuf 0 s.outLen

/-- The container that a caller writes: the header bytes, then the body bytes (R149). -/
def Safety.container (s : State) : List Byte := Safety.headerBytes s ++ Safety.bodyBytes s

/-- The instruction that a host event is; none for the reset input and for a refused access. -/
def Safety.accessOf : HostEvent → Option Instr
  | .rst => none
  | .issue e => (decode e).toOption

/-- The last command a host program writes to CMD is asynchronous, HDR or BODY (R73; log entry 14). -/
def Safety.lastCommandAsync (program : List HostEvent) : Bool :=
  match ((program.filterMap Safety.accessOf).filterMap commandOf).getLast? with
  | some (.hdr _) | some (.body _) => true
  | _ => false

/-- The last access of a host program is a read of STATUS, and the values read end with one whose BUSY bit is 0. -/
def Safety.endsWithIdleStatus (program : List HostEvent) (values : List Word) : Bool :=
  match (program.filterMap Safety.accessOf).getLast?, values.getLast? with
  | some .rdStatus, some v => !v.getLsbD 0
  | _, _ => false

/-- A host program has ended, in a core state and with the values it read, oldest first (R263): all of its accesses are
performed (`coreRun` over a list of events whose host part is the program says so, as does `Safety.performed` of a state of
the machine), LAT_OP = NONE, and, if its last command was asynchronous, its last access is a STATUS read that returned
BUSY = 0. -/
abbrev Safety.ended (program : List HostEvent) (c : CoreState) (values : List Word) : Prop :=
  c.latOp = .none ∧ (Safety.lastCommandAsync program = true → Safety.endsWithIdleStatus program values = true)

/-- The host has performed its last access: none is pending. An assertion of RST may be, which is the platform's and not an
access (R250, R263). -/
def Safety.performed (s : State) : Prop := ∀ e ∈ s.bus, e = .rst

/-- The machine, started at `s` with no value read, has run the host program pending there to its end (R263). -/
def Safety.runEnds (s t : State) : Prop :=
  s.reads = [] ∧ ∃ k, Host.Core.run Sys2Proof.core k s = .next t ∧ Safety.performed t ∧
    Safety.ended s.bus t.toCoreState t.reads.reverse

/-- What the end of a run shows (R263): the registers, the bytes of IBUF below IN_LEN and of OBUF below OUT_LEN, and the
values the host read, oldest first. It says nothing of the buffers beyond those lengths. -/
def Safety.final (s : State) : State × List Byte × List Byte × List Word :=
  (Safety.registers s, rawInput s, Memory.readList s.obuf 0 s.outLen, s.reads.reverse)

/-- The sticky-flag premises of a session claim: no BUSY_VIOL and no IN_OVF (R264). -/
def Safety.clean (s : State) : Prop := s.status.busyViol = false ∧ s.status.inOvf = false

/-- The accesses R255 leaves the host while a command is in flight: STATUS reads, STATUS W1C writes and SRST. -/
def Safety.allowedWhileBusy : Instr → Bool
  | .rdStatus | .wrStatus _ | .srst => true
  | .wrCmd c => c = 0x0000000F
  | _ => false

/-- A host event that has a step: the reset input, or an access the interface admits (R53, R200). -/
def Safety.admitted : HostEvent → Bool
  | .rst => true
  | .issue e => (decode e).toOption.isSome

/-- The law of R113: the empty input succeeds for every width. -/
def Safety.EmptyInputLaw (fn : Width → List CodeUnit → Option (List Byte)) : Prop := ∀ w, fn w [] ≠ none

/-- The law of R116: the source's content scenario succeeds with fewer than 5 bytes. -/
def Safety.ScenarioLaw (fn : Width → List CodeUnit → Option (List Byte)) : Prop :=
  ∃ b, fn .byte (units .byte [0xAA, 0xAA, 0xAA, 0xAA, 0xBB]) = some b ∧ b.length < 5

/-- The law of R115: the external decoder expands header and body to exactly the raw input. -/
def Safety.RoundTripLaw (fn : Width → List CodeUnit → Option (List Byte)) (dec : List Byte → Option (List Byte)) : Prop :=
  ∀ w raw b, lengthOk w raw.length = true → raw.length ≤ Config.maxCapacity → fn w (units w raw) = some b →
    dec (hdrBytes (countWord raw.length) w ++ b) = some raw

end Sys2Proof
end

