-- ==== Sys2Proof/Certificates/Slice0/Obligations.lean ====
section
/-! DEFINITION. The statements for the provers, each from the numbered rules of spec/. -/

open Sys2Proof Sys2Proof.Machine

/-- R141: an HDR command met with BUSY = 0 latches its width and SIZE, sets BUSY, hides the earlier header, and touches
nothing else; so does a CMD write of a word that DECODE_CMD gives that command. -/
def Obligations.HdrAcceptLatchesAndHidesHeader : Prop :=
  ∀ (s : State), s.status.busy = false →
    ∀ i w, (i, w) ∈ [(Instr.hdrB, Width.byte), (Instr.hdrW, Width.word), (Instr.hdrL, Width.longword)] →
      ∃ t, exec i s = .next t ∧ (∀ c, decodeCmd c = .hdr w → exec (.wrCmd c) s = .next t) ∧
        Safety.core t = Safety.core { s with
          latOp := .hdr
          latW := w
          latSize := s.size
          status := { Safety.accepted s.status with hdrValid := false }
          hdrLen := 0
          hb := #v[0, 0, 0, 0, 0, 0, 0, 0] }

/-- R147: the engine's step with LAT_OP = HDR stores the header bytes, completes with SUCCESS, and gives HDR_W0 and
HDR_W1 the small-form or large-form values. Whose turn it is, is the model's schedule (log entry 3). -/
def Obligations.HdrCompletionStoresHeader : Prop :=
  ∀ (s : State), s.latOp = .hdr → nextTurn s = .engine →
    ∃ t, step s = .next t ∧
      (let h := hdrBytes s.latSize s.latW
       t.hb.toList = h ++ List.replicate (8 - h.length) 0 ∧ t.hdrLen = h.length ∧ (t.hdrLen = 4 ∨ t.hdrLen = 8)) ∧
      (s.latSize.toNat ≤ 65535 →
        hdrWord0 t.hb = (sizeCode s.latW ++ s.latSize.extractLsb' 0 16).setWidth 32 ∧ hdrWord1 t.hb = 0) ∧
      (65535 < s.latSize.toNat →
        hdrWord0 t.hb = (sizeCode s.latW).setWidth 32 <<< 16 ∧ hdrWord1 t.hb = s.latSize) ∧
      Safety.core t = Safety.core { s with
        hb := t.hb
        hdrLen := t.hdrLen
        latOp := .none
        status := { Safety.completed s.status .success 0 with hdrValid := true } }

/-- R142, R144, R145, R146: the header is 00, the size_code, and the size big-endian in 2 bytes, or, above 65535, two
zero bytes and the size big-endian in 4 bytes. -/
def Obligations.HeaderBytesLayout : Prop :=
  sizeCode .byte = 0x00 ∧ sizeCode .word = 0x04 ∧ sizeCode .longword = 0x0C ∧
  ∀ (s : Word) (w : Width),
    (s.toNat ≤ 65535 → hdrBytes s w = ([0x00, sizeCode w] : List Byte) ++ Safety.bigEndian 2 s.toNat) ∧
    (65535 < s.toNat → hdrBytes s w = ([0x00, sizeCode w, 0x00, 0x00] : List Byte) ++ Safety.bigEndian 4 s.toNat) ∧
    ((hdrBytes s w).length = 4 ∨ (hdrBytes s w).length = 8)

/-- R148: the header of an HDR command depends only on SIZE and the width, and HDR changes nothing but the header, the
engine's latches and the STATUS record. -/
def Obligations.HeaderDependsOnSizeAndWidthOnly : Prop :=
  ∀ (i : Instr), i ∈ [Instr.hdrB, Instr.hdrW, Instr.hdrL] → ∀ (s s' t t' : State),
    s.status.busy = false → s'.status.busy = false → s.size = s'.size →
    exec i s = .next t → exec i s' = .next t' →
      (engineStep t).hb = (engineStep t').hb ∧ (engineStep t).hdrLen = (engineStep t').hdrLen ∧
      Safety.core (engineStep t) = Safety.core { s with
        hb := (engineStep t).hb
        hdrLen := (engineStep t).hdrLen
        latOp := .none
        latW := t.latW
        latSize := s.size
        status := { Safety.completed s.status .success 0 with hdrValid := true } }

/-- R101: a BODY command met with BUSY = 0 latches its width, sets BUSY, hides the earlier body, and touches nothing
else; so does a CMD write of a word that DECODE_CMD gives that command. -/
def Obligations.BodyAcceptLatchesAndHidesBody : Prop :=
  ∀ (s : State), s.status.busy = false →
    ∀ i w, (i, w) ∈ [(Instr.bodyB, Width.byte), (Instr.bodyW, Width.word), (Instr.bodyL, Width.longword)] →
      ∃ t, exec i s = .next t ∧ (∀ c, decodeCmd c = .body w → exec (.wrCmd c) s = .next t) ∧
        Safety.core t = Safety.core { s with
          latOp := .body
          latW := w
          status := { Safety.accepted s.status with outValid := false }
          outLen := 0
          outPtr := 0 }

/-- R102: the engine's step with LAT_OP = BODY, case by case, in the order of its checks. On success OBUF holds the body
and every byte beyond it is as before; otherwise OBUF is not written. That OBUF is not written otherwise is the model's
reading of R38 (DEDUCED, log entry 5); whose turn it is, is the model's schedule (log entry 3). -/
def Obligations.BodyCompletionByCases : Prop :=
  ∀ (s : State), s.latOp = .body → nextTurn s = .engine → Memory.wf s.obuf →
    ∃ t, step s = .next t ∧
      (if s.latW = .word ∧ s.inLen % 2 ≠ 0 ∨ s.latW = .longword ∧ s.inLen % 4 ≠ 0 then
        Safety.core t = Safety.core { s with
          latOp := .none, outLen := 0, outPtr := 0
          status := { Safety.completed s.status .misaligned (if s.latW = .word then 2 else 4) with outValid := false } }
      else
        match Config.bodyFn s.latW (units s.latW (rawInput s)) with
        | none =>
          Safety.core t = Safety.core { s with
            latOp := .none, outLen := 0, outPtr := 0
            status := { Safety.completed s.status .encFailed 0 with outValid := false } }
        | some b =>
          if Config.obufCap < b.length then
            Safety.core t = Safety.core { s with
              latOp := .none, outLen := 0, outPtr := 0
              status := { Safety.completed s.status .encFailed 1 with outValid := false } }
          else
            Memory.readList t.obuf 0 b.length = b ∧
            (∀ a, b.length ≤ a → Memory.read t.obuf a = Memory.read s.obuf a) ∧
            Safety.core t = Safety.core { s with
              latOp := .none, outLen := b.length, outPtr := 0, obuf := t.obuf
              status := { Safety.completed s.status .success 0 with outValid := true } })

/-- R103, R104: whatever the body function and the capacity, an odd length under Word completes with MISALIGNED 2, a
length that is no multiple of 4 under Longword with MISALIGNED 4, IBUF kept; Byte is never MISALIGNED. That OBUF is
unchanged, which the two MISALIGNED equations also say, is the model's reading of R37 and R38 (DEDUCED, log entry 5). -/
def Obligations.MisalignedBeforeAnyEncoding : Prop :=
  ∀ (fn : Width → List CodeUnit → Option (List Byte)) (cap : Nat) (s : State),
    (s.latW = .word → s.inLen % 2 ≠ 0 →
      Safety.core (bodyCompleteWith fn cap s) = Safety.core { s with
        latOp := .none, outLen := 0, outPtr := 0
        status := { Safety.completed s.status .misaligned 2 with outValid := false } }) ∧
    (s.latW = .longword → s.inLen % 4 ≠ 0 →
      Safety.core (bodyCompleteWith fn cap s) = Safety.core { s with
        latOp := .none, outLen := 0, outPtr := 0
        status := { Safety.completed s.status .misaligned 4 with outValid := false } }) ∧
    (s.latW = .byte ∨ s.latW = .word ∧ s.inLen % 2 = 0 ∨ s.latW = .longword ∧ s.inLen % 4 = 0 →
      (bodyCompleteWith fn cap s).status.result ≠ .misaligned)

/-- R123: a body longer than OBUF_CAP is ENC_FAILED with DETAIL 1 and no byte of it is readable; a body of at most
OBUF_CAP bytes succeeds (R127, case 6). That a body too long writes no byte of OBUF is the model's reading of R38
(DEDUCED, log entry 5). -/
def Obligations.CapacityBoundary : Prop :=
  ∀ (fn : Width → List CodeUnit → Option (List Byte)) (cap : Nat) (s : State) (b : List Byte),
    lengthOk s.latW s.inLen = true → fn s.latW (units s.latW (rawInput s)) = some b →
      (cap < b.length → ∃ st, bodyCompleteWith fn cap s =
          { s with latOp := .none, outLen := 0, outPtr := 0, status := st } ∧
        st = { Safety.completed s.status .encFailed 1 with outValid := false }) ∧
      (b.length ≤ cap → (bodyCompleteWith fn cap s).status.result = .success ∧
        (bodyCompleteWith fn cap s).outLen = b.length)

/-- R124: after a successful BODY, OBUF[0..OUT_LEN) is exactly the body and the record says SUCCESS; later IN_DATA writes
and CLRIN do not change it. -/
def Obligations.SuccessfulBodyIsReadableAndSeparate : Prop :=
  ∀ (s : State) (b : List Byte), s.latOp = .body → Memory.wf s.obuf →
    bodyOutcome Config.bodyFn Config.obufCap s.latW (rawInput s) = .body b →
      let t := engineStep s
      Safety.bodyBytes t = b ∧ t.outLen = b.length ∧ t.outPtr = 0 ∧ t.status.outValid = true ∧
      t.status.result = .success ∧ t.status.detail = 0 ∧ t.status.ok = true ∧ t.status.done = true ∧
      t.status.busy = false ∧
      (∀ data u, exec (.wrInData data) t = .next u → Safety.bodyBytes u = b) ∧
      (∀ u, exec .clrIn t = .next u → Safety.bodyBytes u = b)

/-- R113: with IN_LEN = 0 BODY completes with SUCCESS under every width, and OUT_LEN is the length of BODY_FN(w, []). -/
def Obligations.EmptyInputBodySucceeds : Prop :=
  Safety.EmptyInputLaw Config.bodyFn ∧
  ∀ (s : State), s.latOp = .body → s.inLen = 0 →
    ∃ b, Config.bodyFn s.latW [] = some b ∧
      (engineStep s).status.result = .success ∧ (engineStep s).status.outValid = true ∧ (engineStep s).outLen = b.length

/-- R116: the source's content scenario has a body of fewer than 5 bytes. -/
def Obligations.ScenarioBodyIsShort : Prop := Safety.ScenarioLaw Config.bodyFn

/-- R111: two BODY completions with the same width and the same IBUF[0..IN_LEN) give the same RESULT, DETAIL, OUT_LEN and
body bytes, whatever else differs. -/
def Obligations.BodyIsDeterministic : Prop :=
  ∀ (s s' : State), s.latOp = .body → s'.latOp = .body → Memory.wf s.obuf → Memory.wf s'.obuf →
    s.latW = s'.latW → rawInput s = rawInput s' →
      let t := engineStep s
      let t' := engineStep s'
      t.status.result = t'.status.result ∧ t.status.detail = t'.status.detail ∧ t.outLen = t'.outLen ∧
      Safety.bodyBytes t = Safety.bodyBytes t'

/-- R126: BODY, from acceptance to completion, leaves IBUF, IN_LEN, SIZE, the header and the sticky bits alone. -/
def Obligations.BodyLeavesInputAndHeader : Prop :=
  ∀ (i : Instr), i ∈ [Instr.bodyB, Instr.bodyW, Instr.bodyL] → ∀ (s t : State),
    s.status.busy = false → exec i s = .next t →
      let u := engineStep t
      (∀ a, Memory.read u.ibuf a = Memory.read s.ibuf a) ∧ u.inLen = s.inLen ∧ u.size = s.size ∧ u.hb = s.hb ∧
      u.hdrLen = s.hdrLen ∧ u.status.hdrValid = s.status.hdrValid ∧ u.status.inOvf = s.status.inOvf ∧
      u.status.outUnf = s.status.outUnf ∧ u.status.busyViol = s.status.busyViol

/-- R105: when the length check holds, the units are |raw| div k lists of k bytes that make up the input in order. -/
def Obligations.UnitsPartitionTheInput : Prop :=
  ∀ (w : Width) (raw : List Byte), lengthOk w raw.length = true →
    (units w raw).length = raw.length / unitBytes w ∧ (∀ u ∈ units w raw, u.length = unitBytes w) ∧
    (units w raw).flatten = raw ∧
    ∀ i, i < raw.length / unitBytes w →
      (units w raw)[i]? = some ((raw.drop (i * unitBytes w)).take (unitBytes w))

/-- R106: RUNS is a decomposition into maximal runs (positive lengths, adjacent values different, repeats that make up
the sequence), and the only one. -/
def Obligations.RunsAreTheUniqueMaximalRuns : Prop :=
  ∀ (u : List CodeUnit) (d : List (CodeUnit × Nat)),
    ((∀ p ∈ d, 1 ≤ p.2) ∧ d.IsChain (fun p q => p.1 ≠ q.1) ∧ (d.map fun p => List.replicate p.2 p.1).flatten = u) ↔
      d = runs u

/-- R122, points 1 to 4, and R109: the segments expand to the units in order; repeat counts lie between MIN_RUN and
MAX_RUN, literal lengths between 1 and MAX_LIT. -/
def Obligations.SegmentsRestoreUnitsWithinBounds : Prop :=
  ∀ (p : RefParams), p.Wf → ∀ (u : List CodeUnit),
    ((seg p u).map Segment.expand).flatten = u ∧ seg p [] = [] ∧
    (∀ v c, Segment.rep v c ∈ seg p u → p.minRun ≤ c ∧ ∀ m ∈ p.maxRun, c ≤ m) ∧
    (∀ us, Segment.lit us ∈ seg p u → 1 ≤ us.length ∧ ∀ m ∈ p.maxLit, us.length ≤ m)

/-- R122, point 5: no literal segment contains MIN_RUN consecutive identical units. -/
def Obligations.LiteralsHoldNoLongRun : Prop :=
  ∀ (p : RefParams), p.Wf → ∀ (u us : List CodeUnit), Segment.lit us ∈ seg p u →
    ∀ v, ¬ List.replicate p.minRun v <:+: us

/-- R122, points 6 and 7: two adjacent literals only after a full one; two adjacent repeats of one value only after a
full one. -/
def Obligations.AdjacentSegmentsOnlyAfterFullOnes : Prop :=
  ∀ (p : RefParams), p.Wf → ∀ (u : List CodeUnit) (l r : List Segment),
    (∀ a b, seg p u = l ++ [.lit a, .lit b] ++ r → p.maxLit = some a.length) ∧
    (∀ v c c', seg p u = l ++ [.rep v c, .rep v c'] ++ r → p.maxRun = some c)

/-- R122, point 8: without upper bounds each long maximal run becomes exactly one repeat segment, and each maximal
stretch of shorter runs exactly one literal segment; what stands before and after each in SEG expands to what stands
before and after it in the input. -/
def Obligations.UnboundedSegmentsFollowTheRuns : Prop :=
  ∀ (p : RefParams), p.Wf → p.maxRun = none → p.maxLit = none → ∀ (u : List CodeUnit) (l m r : List (CodeUnit × Nat)),
    let span (rs : List (CodeUnit × Nat)) := (rs.map fun q => List.replicate q.2 q.1).flatten
    let expand (ss : List Segment) := (ss.map Segment.expand).flatten
    (∀ v n, runs u = l ++ [(v, n)] ++ r → p.minRun ≤ n →
      ∃ a b, seg p u = a ++ [.rep v n] ++ b ∧ expand a = span l ∧ expand b = span r) ∧
    (runs u = l ++ m ++ r → m ≠ [] → (∀ q ∈ m, q.2 < p.minRun) → (∀ q ∈ l.getLast?, p.minRun ≤ q.2) →
      (∀ q ∈ r.head?, p.minRun ≤ q.2) →
      ∃ a b, seg p u = a ++ [.lit (span m)] ++ b ∧ expand a = span l ∧ expand b = span r)

/-- R118: the reference body function meets the law of the empty input iff ENC_FAIL(w, []) is false for every width; its
bytes are PRE, the segments' bytes in order, POST. -/
def Obligations.ReferenceBodyMeetsEmptyLawIff : Prop :=
  ∀ (p : RefParams), p.Wf →
    (Safety.EmptyInputLaw (bodyFnRef p) ↔ ∀ w, p.encFail w [] = false) ∧
    ∀ w u, (p.encFail w u = true → bodyFnRef p w u = none) ∧
      (p.encFail w u = false →
        bodyFnRef p w u = some (p.pre w ++ ((seg p u).map (emit p w)).flatten ++ p.post w))

/-- R160: CLRIN, the word 0x00000003, empties the input buffer's count and completes; nothing else changes, IBUF bytes
and IN_OVF included. -/
def Obligations.ClrInEmptiesInput : Prop :=
  decodeCommand 0x00000003 = .clrIn ∧ ∀ (s : State), s.status.busy = false →
    exec .clrIn s = .next { s with inLen := 0, latOp := .none, status := Safety.completed s.status .success 0 }

/-- R161: CLROUT, the word 0x00000004, discards the body result and completes; a following OUT_DATA read returns 0 and
sets OUT_UNF. That the bytes of OBUF stay is the model's reading of R38 (DEDUCED, log entry 5); the value read is
recorded in the model's list `reads` (log entry 2). -/
def Obligations.ClrOutDiscardsBody : Prop :=
  decodeCommand 0x00000004 = .clrOut ∧ ∀ (s : State), s.status.busy = false →
    ∃ t, exec .clrOut s = .next t ∧
      (∀ a, Memory.read t.obuf a = Memory.read s.obuf a) ∧
      t = { s with
        outLen := 0, outPtr := 0, latOp := .none
        status := { Safety.completed s.status .success 0 with outValid := false } } ∧
      exec .rdOutData t = .next { t with reads := 0 :: t.reads, status := { t.status with outUnf := true } }

/-- R162: REWIND, the word 0x00000005, sets OUT_PTR to 0 and completes; with a body the next OUT_DATA read returns
OBUF[0]. The value read is recorded in the model's list `reads` (log entry 2). -/
def Obligations.RewindRestartsReading : Prop :=
  decodeCommand 0x00000005 = .rewind ∧ ∀ (s : State), s.status.busy = false →
    ∃ t, exec .rewind s = .next t ∧
      t = { s with outPtr := 0, latOp := .none, status := Safety.completed s.status .success 0 } ∧
      (s.status.outValid = true → 0 < s.outLen →
        exec .rdOutData t = .next { t with outPtr := 1, reads := byteWord (Memory.read s.obuf 0) :: t.reads })

/-- R163, R250, R251: SRST, exactly the word 0x0000000F, whether BUSY is 0 or 1, and the reset input bring every
register and latch to its reset value, and the two have the same effect on the core. -/
def Obligations.ResetSourcesGiveResetState : Prop :=
  (∀ c : Word, decodeCommand c = .srst ↔ c = 0x0000000F) ∧
  (∀ (s : State), ∃ t, exec .srst s = .next t ∧ exec (.wrCmd 0x0000000F) s = .next t ∧
    Safety.registers t = State.reset) ∧
  (∀ (s u : State), nextTurn s = .rst u → ∃ t t', step s = .next t ∧ exec .srst s = .next t' ∧
    Safety.registers t = State.reset ∧ Safety.core t = Safety.core t')

/-- R164: an illegal word met with BUSY = 0 completes with ILLEGAL and DECODE_CMD's DETAIL, and changes only STATUS; it
keeps HDR_VALID, OUT_VALID and the sticky flags. -/
def Obligations.IllegalWordChangesOnlyStatus : Prop :=
  ∀ (s : State) (c : Word) (d : BitVec 4), s.status.busy = false → decodeCmd c = .illegal d →
    (d = 1 ∨ d = 2 ∨ d = 3) ∧
    ∃ t, exec (.illegal c) s = .next t ∧
      t = { s with latOp := .none, status := Safety.completed s.status .illegal d } ∧
      (s.latOp = .none → t = { s with status := Safety.completed s.status .illegal d })

/-- R166: while BUSY, a CMD write of 0x0000000F is a reset, and any other CMD write, whatever command row or word it is,
sets BUSY_VIOL and changes nothing else. -/
def Obligations.BusyCommandIsOnlyAViolation : Prop :=
  ∀ (s : State), s.status.busy = true →
    (∃ t, exec (.wrCmd 0x0000000F) s = .next t ∧ Safety.registers t = State.reset) ∧
    (∀ c : Word, c ≠ 0x0000000F →
      exec (.wrCmd c) s = .next { s with status := { s.status with busyViol := true } }) ∧
    (∀ i ∈ [Instr.hdrB, .hdrW, .hdrL, .bodyB, .bodyW, .bodyL, .clrIn, .clrOut, .rewind],
      exec i s = .next { s with status := { s.status with busyViol := true } }) ∧
    (∀ c, (Instr.illegal c).wf = true →
      exec (.illegal c) s = .next { s with status := { s.status with busyViol := true } })

/-- R181, R82: a WR.CMD access with a word completes in every state, and in the very state in which the command row that
the word matches completes, BUSY or not. -/
def Obligations.CmdWriteIsTheDecodedCommand : Prop :=
  ∀ (c : Word) (s : State), ∃ t, exec (.wrCmd c) s = .next t ∧ exec (decodeCommand c) s = .next t

/-- R76: DECODE_CMD, its fields taken by arithmetic and its checks in order: reserved bits, opcode, width. -/
def Obligations.DecodeCmdChecksInOrder : Prop :=
  ∀ (c : Word),
    let op := c.toNat % 16
    let wf := c.toNat / 16 % 4
    decodeCmd c =
      if c.toNat / 64 ≠ 0 then .illegal 3
      else if op ∉ [1, 2, 3, 4, 5, 15] then .illegal 1
      else if op = 1 ∨ op = 2 then
        if wf = 2 then .illegal 2
        else
          let w : Width := if wf = 0 then .byte else if wf = 1 then .word else .longword
          if op = 1 then .hdr w else .body w
      else if wf ≠ 0 then .illegal 2
      else if op = 3 then .clrIn
      else if op = 4 then .clrOut
      else if op = 5 then .rewind
      else .srst

/-- R77, R78: the ten words of R77 are the only legal command words. -/
def Obligations.TenLegalCommandWords : Prop :=
  ∀ (c : Word), (∃ d, decodeCmd c = .illegal d) ↔
    c ∉ ([0x00000001, 0x00000011, 0x00000031, 0x00000002, 0x00000012, 0x00000032, 0x00000003, 0x00000004, 0x00000005,
      0x0000000F] : List Word)

/-- Decode and encode agree: every well-formed instruction, with every data word, is decoded from its encoding. -/
def Obligations.DecodeOfEncode : Prop :=
  ∀ (i : Instr), i.wf = true → decode (encode i) = .ok i

/-- Each admitted encoded object has one meaning: what it decodes to is well-formed and encodes to that very object. -/
def Obligations.EncodeOfDecode : Prop :=
  ∀ (e : Encoded) (i : Instr), decode e = .ok i → encode i = e ∧ i.wf = true

/-- R53, R200: an access is refused exactly when it is not 4 bytes wide, its offset is no multiple of 4, or it lies
outside the 64-byte window; a refused access has no step. That the whole system's step is refused while such an access
is the next event and the engine's drawn delay has not run out is the model's choice of a schedule (log entry 3) and of
a refusal (DEDUCED, log entry 11). -/
def Obligations.UnadmittedAccessesHaveNoStep : Prop :=
  (∀ (off width : Nat) (data : Word),
    ((∃ i, decode (.access (.read off width)) = .ok i) ↔ width = 4 ∧ off % 4 = 0 ∧ off ≤ 0x3C) ∧
    ((∃ i, decode (.access (.write off width data)) = .ok i) ↔ width = 4 ∧ off % 4 = 0 ∧ off ≤ 0x3C)) ∧
  ∀ (s : State) (e : Encoded) (r : AccessError) (rest : List HostEvent),
    s.bus = .issue e :: rest → engineReady s = false → decode e = .error r → step s = .refused (.accessRefused r)

/-- R71, R77: a few words written out from the spec's tables decode to the instructions they stand for. That 32 bits are a
command word, 8 bits a descriptor and 40 bits a descriptor with its data word above it is the host's numbering of table
bits as the model reads it (PRESUMED, log entry 9). -/
def Obligations.SpecWordsDecode : Prop :=
  decodeTableWord 32 0x00000031 = some .hdrL ∧ decodeTableWord 32 0x00000012 = some .bodyW ∧
  decodeTableWord 32 0x0000000F = some .srst ∧ decodeTableWord 32 0x00000021 = some (.illegal 0x21) ∧
  decodeTableWord 8 0x14 = some .rdOutData ∧ decodeTableWord 40 0x00001FF4C = some (.wrInData 0x1FF) ∧
  decodeTableWord 8 0x7C = some (.wrUnmapped3C 0) ∧ decodeTableWord 8 0x02 = none

/-- R182, R185, R188, R189, R192 to R198: each read without a side effect, found under its descriptor, returns its
register and changes nothing. The value returned is recorded in the model's list `reads` (log entry 2). The descriptor
is read in the host's numbering of table bits (PRESUMED, log entry 9). -/
def Obligations.ReadsReturnTheirRegister : Prop :=
  ∀ (s : State),
    ∀ d i v, (d, i, v) ∈ ([(0x00, .rdCmd, 0), (0x08, .rdSize, s.size), (0x0C, .rdInData, 0),
      (0x10, .rdInLen, BitVec.ofNat 32 s.inLen), (0x18, .rdOutLen, BitVec.ofNat 32 s.outLen),
      (0x1C, .rdOutPtr, BitVec.ofNat 32 s.outPtr), (0x20, .rdHdrLen, BitVec.ofNat 32 s.hdrLen),
      (0x24, .rdHdrW0, s.hb[0] ++ s.hb[1] ++ s.hb[2] ++ s.hb[3]),
      (0x28, .rdHdrW1, s.hb[4] ++ s.hb[5] ++ s.hb[6] ++ s.hb[7]),
      (0x2C, .rdCapIn, BitVec.ofNat 32 Config.ibufCap),
      (0x30, .rdCapOut, BitVec.ofNat 32 Config.obufCap)] : List (Nat × Instr × Word)) →
      decodeTableWord 8 d = some i ∧ exec i s = .next { s with reads := v :: s.reads }

/-- R183: RD.STATUS returns the fields at their places, every reserved bit 0, and changes nothing. The descriptor is
read in the host's numbering of table bits (PRESUMED, log entry 9), and the value returned is recorded in the model's
list `reads` (log entry 2). -/
def Obligations.StatusReadComposesFields : Prop :=
  decodeTableWord 8 0x04 = some .rdStatus ∧
  ∀ (s : State), ∃ v : Word, exec .rdStatus s = .next { s with reads := v :: s.reads } ∧
    v.toNat = s.status.busy.toNat + 2 * s.status.done.toNat + 4 * s.status.ok.toNat
      + 2 ^ 4 * s.status.result.code.toNat + 2 ^ 8 * s.status.detail.toNat
      + 2 ^ 16 * s.status.hdrValid.toNat + 2 ^ 17 * s.status.outValid.toNat
      + 2 ^ 24 * s.status.inOvf.toNat + 2 ^ 25 * s.status.outUnf.toNat + 2 ^ 26 * s.status.busyViol.toNat

/-- R199: at 0x34, 0x38 and 0x3C a read returns 0 and a write is ignored; no state changes, whatever BUSY is. The
descriptors and data words are read in the host's numbering of table bits (PRESUMED, log entry 9), and the value
returned is recorded in the model's list `reads` (log entry 2). -/
def Obligations.UnmappedOffsetsReadZero : Prop :=
  ∀ (s : State) (data : Word),
    (∀ d i, (d, i) ∈ ([(0x34, .rdUnmapped34), (0x38, .rdUnmapped38), (0x3C, .rdUnmapped3C)] : List (Nat × Instr)) →
      decodeTableWord 8 d = some i ∧ exec i s = .next { s with reads := 0 :: s.reads }) ∧
    (∀ d i, (d, i) ∈ ([(0x74, .wrUnmapped34 data), (0x78, .wrUnmapped38 data), (0x7C, .wrUnmapped3C data)] :
        List (Nat × Instr)) →
      decodeTableWord 40 (d + 256 * data.toNat) = some i ∧ exec i s = .next s)

/-- R190: a write to any of the nine read-only registers is ignored, also while BUSY. The descriptors and data words are
read in the host's numbering of table bits (PRESUMED, log entry 9). -/
def Obligations.ReadOnlyWritesAreIgnored : Prop :=
  ∀ (s : State) (data : Word),
    ∀ d i, (d, i) ∈ ([(0x50, .wrInLen data), (0x54, .wrOutData data), (0x58, .wrOutLen data), (0x5C, .wrOutPtr data),
      (0x60, .wrHdrLen data), (0x64, .wrHdrW0 data), (0x68, .wrHdrW1 data), (0x6C, .wrCapIn data),
      (0x70, .wrCapOut data)] : List (Nat × Instr)) →
      decodeTableWord 40 (d + 256 * data.toNat) = some i ∧ exec i s = .next s

/-- R184: a STATUS write clears IN_OVF, OUT_UNF and BUSY_VIOL where bits 24, 25 and 26 are 1, and changes nothing else,
whatever BUSY is. -/
def Obligations.StatusWriteClearsStickyBits : Prop :=
  ∀ (s : State) (data : Word),
    exec (.wrStatus data) s = .next { s with status := { s.status with
      inOvf := if data.toNat / 2 ^ 24 % 2 = 1 then false else s.status.inOvf
      outUnf := if data.toNat / 2 ^ 25 % 2 = 1 then false else s.status.outUnf
      busyViol := if data.toNat / 2 ^ 26 % 2 = 1 then false else s.status.busyViol } }

/-- R186: a SIZE write sets SIZE to any 32-bit value; while BUSY it only sets BUSY_VIOL. -/
def Obligations.SizeWriteSetsSizeUnlessBusy : Prop :=
  ∀ (s : State) (data : Word),
    (s.status.busy = false → exec (.wrSize data) s = .next { s with size := data }) ∧
    (s.status.busy = true →
      exec (.wrSize data) s = .next { s with status := { s.status with busyViol := true } })

/-- R187: an IN_DATA write appends data[7:0] at IN_LEN, leaving every other byte of IBUF alone; a full buffer drops the
byte and sets IN_OVF; while BUSY it only sets BUSY_VIOL. -/
def Obligations.InDataWriteAppendsByte : Prop :=
  ∀ (s : State) (data : Word), Memory.wf s.ibuf →
    (s.status.busy = true →
      exec (.wrInData data) s = .next { s with status := { s.status with busyViol := true } }) ∧
    (s.status.busy = false → s.inLen = Config.ibufCap →
      exec (.wrInData data) s = .next { s with status := { s.status with inOvf := true } }) ∧
    (s.status.busy = false → s.inLen ≠ Config.ibufCap →
      ∃ t, exec (.wrInData data) s = .next t ∧ t = { s with inLen := s.inLen + 1, ibuf := t.ibuf } ∧
        (Memory.read t.ibuf s.inLen).toNat = data.toNat % 256 ∧
        (∀ a, a ≠ s.inLen → Memory.read t.ibuf a = Memory.read s.ibuf a) ∧
        ∀ a, Memory.read t.obuf a = Memory.read s.obuf a)

/-- R191: an OUT_DATA read returns OBUF[OUT_PTR] and advances OUT_PTR, or returns 0 and sets OUT_UNF. The value returned
is recorded in the model's list `reads` (log entry 2). -/
def Obligations.OutDataReadPopsOrUnderruns : Prop :=
  ∀ (s : State),
    (s.status.outValid = true → s.outPtr < s.outLen →
      exec .rdOutData s = .next { s with
        outPtr := s.outPtr + 1, reads := (Memory.read s.obuf s.outPtr).setWidth 32 :: s.reads }) ∧
    (s.status.outValid = false ∨ s.outLen ≤ s.outPtr →
      exec .rdOutData s = .next { s with reads := 0 :: s.reads, status := { s.status with outUnf := true } })

/-- A step runs the decoded instruction: when it is the host's turn and its first event decodes to i, the step is exec
of i in the state with the event taken off the sequence and the engine's step one event nearer (the model's own fields,
log entries 1 and 3). -/
def Obligations.StepRunsTheDecodedInstruction : Prop :=
  ∀ (s : State) (e : Encoded) (i : Instr) (rest : List HostEvent),
    s.bus = .issue e :: rest → engineReady s = false → decode e = .ok i →
      step s = exec i { s with bus := rest, engineWait := s.engineWait - 1 }

/-- R36, R59, R239: the engine steps only when LAT_OP ≠ NONE, and then its step is the completion rule; with no event
pending and LAT_OP = NONE the state is retained. Whose turn it is, is the model's schedule (log entry 3). -/
def Obligations.EngineStepsExactlyWhenLatched : Prop :=
  ∀ (s : State),
    (nextTurn s = .engine → s.latOp ≠ .none ∧ step s = .next (engineStep s) ∧ (engineStep s).latOp = .none ∧
      (engineStep s).status.busy = false ∧ (engineStep s).status.done = true) ∧
    (s.bus = [] → s.latOp ≠ .none → nextTurn s = .engine) ∧
    (s.bus = [] → s.latOp = .none → step s = .next s)

/-- R59: host events take effect in the order the host issues them: a step takes none of them, or exactly the first; and
no step changes a value already read. The sequence and the values read are the model's own fields (log entries 1 and 2).
-/
def Obligations.HostEventsKeepTheirOrder : Prop :=
  ∀ (s t : State), step s = .next t →
    (t.bus = s.bus ∨ ∃ e, s.bus = e :: t.bus) ∧ (t.reads = s.reads ∨ ∃ v, t.reads = v :: s.reads)

/-- R41: the reset values, and that both reset sources produce exactly these. -/
def Obligations.ResetValues : Prop :=
  State.reset.status.toWord = 0x00000000 ∧ State.reset.size = 0x00000000 ∧ State.reset.inLen = 0 ∧
  State.reset.outLen = 0 ∧ State.reset.outPtr = 0 ∧ State.reset.hb.toList = List.replicate 8 0x00 ∧
  State.reset.hdrLen = 0 ∧ hdrWord0 State.reset.hb = 0 ∧ hdrWord1 State.reset.hb = 0 ∧ State.reset.latOp = .none ∧
  State.reset.latW = .byte ∧ State.reset.latSize = 0 ∧
  (∀ (s : State), ∃ t, exec .srst s = .next t ∧ Safety.registers t = Safety.registers State.reset) ∧
  ∀ (s u : State), nextTurn s = .rst u → ∃ t, step s = .next t ∧ Safety.registers t = Safety.registers State.reset

/-- R40: the reset state satisfies every invariant. -/
def Obligations.ResetMeetsTheInvariants : Prop := Safety.Inv State.reset

/-- R40: every step from a state that meets the invariants, whether or not a run reaches it, gives a state that meets
them. -/
def Obligations.StepKeepsTheInvariants : Prop :=
  ∀ (s t : State), Safety.Inv s → step s = .next t → Safety.Inv t

/-- R26, R27: no step leaves a RESULT with a DETAIL that R27's table does not give it. -/
def Obligations.StepKeepsLegalRecords : Prop :=
  ∀ (s t : State), Safety.RecordLegal s.status → step s = .next t → Safety.RecordLegal t.status

/-- R37, R38: no instruction changes a byte of OBUF, and only WR.IN_DATA changes a byte of IBUF, the one at IN_LEN. For
RESET and CLROUT this is the model's reading of R37 and R38 (DEDUCED, log entry 5). -/
def Obligations.InstructionsLeaveBufferBytes : Prop :=
  ∀ (i : Instr) (s t : State), Memory.wf s.ibuf → exec i s = .next t →
    (∀ a, Memory.read t.obuf a = Memory.read s.obuf a) ∧
    (∀ a, ((∃ data, i = .wrInData data) → a ≠ s.inLen) → Memory.read t.ibuf a = Memory.read s.ibuf a)

/-- R38: a step leaves OBUF alone, or it is a BODY completion that succeeds and writes the body from index 0. For
failing completions and resets this is the model's reading of R38 (DEDUCED, log entry 5). -/
def Obligations.ObufChangesOnlyOnSuccess : Prop :=
  ∀ (s t : State), step s = .next t →
    t.obuf = s.obuf ∨
    (s.latOp = .body ∧ nextTurn s = .engine ∧ t.status.result = .success ∧ t.status.outValid = true ∧
      ∃ b, Config.bodyFn s.latW (units s.latW (rawInput s)) = some b ∧ t.outLen = b.length ∧
        t.obuf = Memory.writeList s.obuf 0 b)

/-- R28: SIZE changes only by a SIZE write or by a reset; no other command writes it. -/
def Obligations.SizeChangesOnlyByWriteOrReset : Prop :=
  ∀ (s t : State), step s = .next t → t.size ≠ s.size →
    (∃ data u, nextTurn s = .host (.wrSize data) u ∧ t.size = data) ∨ Safety.registers t = State.reset

/-- R226: a sticky flag that a step clears was cleared by a STATUS write or by a reset. -/
def Obligations.StickyFlagsAreClearedOnlyByHost : Prop :=
  ∀ (s t : State), step s = .next t →
    (s.status.inOvf = true ∧ t.status.inOvf = false ∨ s.status.outUnf = true ∧ t.status.outUnf = false ∨
      s.status.busyViol = true ∧ t.status.busyViol = false) →
    (∃ data u, nextTurn s = .host (.wrStatus data) u) ∨ Safety.registers t = State.reset

/-- R36, R225, R231: a command becomes latched only by an HDR or BODY row, or a CMD write that decodes to one, met with
no command in flight; it leaves the latch only by the engine's step or a reset. -/
def Obligations.LatchChangesOnlyByAcceptCompleteReset : Prop :=
  ∀ (s t : State), Safety.Inv s → step s = .next t → t.latOp ≠ s.latOp →
    (s.latOp = .none ∧ ∃ i u, nextTurn s = .host i u ∧
      (i ∈ [Instr.hdrB, .hdrW, .hdrL] ∧ t.latOp = .hdr ∨ i ∈ [Instr.bodyB, .bodyW, .bodyL] ∧ t.latOp = .body ∨
        ∃ c w, i = .wrCmd c ∧ (decodeCmd c = .hdr w ∧ t.latOp = .hdr ∨ decodeCmd c = .body w ∧ t.latOp = .body) ∧
          t.latW = w)) ∨
    (s.latOp ≠ .none ∧ t.latOp = .none ∧ (nextTurn s = .engine ∨ Safety.registers t = State.reset))

/-- R262: an accepted command completes, or is abandoned by a reset, after finitely many steps. The bound is the drawn
delay, a free value of the model (log entry 3): the statement holds for every value of it. -/
def Obligations.AcceptedCommandCompletes : Prop :=
  ∀ (s : State), Safety.Inv s → s.latOp ≠ .none → s.bus.all Safety.admitted = true →
    ∃ k t, k ≤ s.engineWait + 1 ∧ Host.Core.run Sys2Proof.core k s = .next t ∧ t.latOp = .none ∧ t.status.busy = false

/-- R229: if the host makes only STATUS reads and STATUS W1C writes while a command is in flight, the core's state once
all is done is the same under every order of the engine's step among them. The orders are the values of the drawn delay
(log entry 3). -/
def Obligations.StatusTrafficIsOrderIndependent : Prop :=
  ∀ (s : State), s.latOp ≠ .none → (∀ e ∈ s.bus, e = rd .status ∨ ∃ data, e = wr .status data) →
    ∃ c : State, c.latOp = .none ∧ ∀ wait : Nat, ∃ t,
      Host.Core.run Sys2Proof.core (s.bus.length + 1) { s with engineWait := wait } = .next t ∧
      t.bus = [] ∧ Safety.core t = c

/-- R191, R258, R264: OUT_LEN reads of OUT_DATA after a body return its bytes in order, each zero-extended; one more
read returns 0 and sets OUT_UNF. The values are recorded in the model's list `reads` (log entry 2). -/
def Obligations.ReadoutReturnsTheBody : Prop :=
  ∀ (s : State), s.latOp = .none → s.status.outValid = true → s.outPtr = 0 →
    ∃ t, Host.Core.run Sys2Proof.core s.outLen { s with bus := List.replicate s.outLen (rd .outData) } = .next t ∧
      t.reads = ((Safety.bodyBytes s).map byteWord).reverse ++ s.reads ∧ t.outPtr = s.outLen ∧ t.status = s.status ∧
      exec .rdOutData t = .next { t with reads := 0 :: t.reads, status := { t.status with outUnf := true } }

/-- R187, R256: pushing bytes that fit appends them, in order, to IBUF[0..IN_LEN), and changes nothing else of the core.
-/
def Obligations.PushedBytesAreAppended : Prop :=
  ∀ (s : State) (bs : List Byte), s.latOp = .none → s.status.busy = false → Memory.wf s.ibuf →
    s.inLen + bs.length ≤ Config.ibufCap →
      ∃ t, Host.Core.run Sys2Proof.core bs.length { s with bus := pushBytes bs } = .next t ∧
        rawInput t = rawInput s ++ bs ∧
        Safety.core t = Safety.core { s with inLen := s.inLen + bs.length, ibuf := t.ibuf }

/-- R115, R149: under any body function and external decoder that obey the round-trip law, HDR and then BODY with one
width and SIZE = IN_LEN give, when BODY succeeds, a container that the decoder expands to exactly the input. -/
def Obligations.SessionContainerDecodesToInput : Prop :=
  ∀ (fn : Width → List CodeUnit → Option (List Byte)) (dec : List Byte → Option (List Byte)) (cap : Nat) (w : Width)
    (s t u : State),
    Safety.RoundTripLaw fn dec → Memory.wf s.obuf → s.status.busy = false → s.inLen ≤ Config.maxCapacity →
    s.size = countWord s.inLen →
    exec (.wrCmd (hdrCommand w)) s = .next t → exec (.wrCmd (bodyCommand w)) (engineStep t) = .next u →
    (bodyCompleteWith fn cap u).status.result = .success →
      dec (Safety.container (bodyCompleteWith fn cap u)) = some (rawInput s)

/-- R220, R231: no instruction faults or is refused: every one answers a next state in every state. That there is no
fault and no refusal is read from R220 and R231 (DEDUCED, log entry 11); that the host's sequence `bus` is left alone
speaks of the model's own field (log entry 1). -/
def Obligations.EveryInstructionAnswersNext : Prop :=
  ∀ (i : Instr) (s : State), ∃ t, exec i s = .next t ∧ t.bus = s.bus

/-- R57: BASE is 64-byte aligned, and a MemRead or MemWrite reaches the window exactly at BASE to BASE + 63, at the
offset from BASE. That an access outside the window is no event of the core is the model's (DEDUCED, log entry 12),
where 93_implementation_defined.md I12 calls it refused: neither has a step of the core. -/
def Obligations.WindowSitsAtBase : Prop :=
  Config.base % 64 = 0 ∧ ∀ (addr n : Nat) (v : Word),
    (∀ off, off < 64 → addr = Config.base + off →
      hostRead addr n = some (.issue (.access (.read off n))) ∧
      hostWrite addr n v = some (.issue (.access (.write off n v)))) ∧
    (addr < Config.base ∨ Config.base + 64 ≤ addr → hostRead addr n = none ∧ hostWrite addr n v = none)
end

