-- ==== Sys2Proof/Laws/Config.lean ====
section
/-! SUPPORT. The domains of the capacities (00_scope.md R8), which hold by the parameters' shape. -/

namespace Sys2Proof

theorem Config.one_le_ibufCap : 1 ≤ Config.ibufCap := Nat.le_add_left 1 _

theorem Config.ibufCap_le : Config.ibufCap ≤ Config.maxCapacity :=
  Nat.succ_le_of_lt (Nat.mod_lt _ (by decide))

theorem Config.length_emptyBody_le (w : Width) : (Config.emptyBody w).length ≤ Config.maxCapacity := by
  simp [Config.emptyBody]

theorem Config.length_emptyBody_le_obufCap (w : Width) : (Config.emptyBody w).length ≤ Config.obufCap := by
  unfold Config.obufCap Config.obufCapMin
  cases w <;> omega

theorem Config.one_le_obufCap : 1 ≤ Config.obufCap := by
  unfold Config.obufCap Config.obufCapMin
  omega

theorem Config.obufCap_le : Config.obufCap ≤ Config.maxCapacity := by
  have h1 := Config.length_emptyBody_le .byte
  have h2 := Config.length_emptyBody_le .word
  have h3 := Config.length_emptyBody_le .longword
  have hle : Config.obufCapMin ≤ Config.maxCapacity := by
    unfold Config.obufCapMin Config.maxCapacity at *
    omega
  have hlt := Nat.mod_lt Config.obufCapFree (show 0 < Config.maxCapacity + 1 - Config.obufCapMin by omega)
  unfold Config.obufCap
  omega

/-- BODY_FN on the empty input (R113). -/
theorem Config.bodyFn_nil (w : Width) : Config.bodyFn w [] = some (Config.emptyBody w) := by simp [Config.bodyFn]

end Sys2Proof
end

