-- ==== Sys2Proof/Laws/Decode.lean ====
section
/-! SUPPORT. The fields of a command word as arithmetic, the register at an offset, and the admission test, one lemma
each. -/

namespace Sys2Proof

/-- A command word from its three fields (R72). -/
theorem word_fields (c : Word) : c.toNat = c.toNat / 64 * 64 + c.toNat / 16 % 4 * 16 + c.toNat % 16 := by omega

/-- The RSVD field is 0 (R72). -/
theorem rsvd_eq_zero (c : Word) : c.extractLsb' 6 26 = 0 ↔ c.toNat / 64 = 0 := by
  rw [← BitVec.toNat_inj]
  simp [Nat.shiftRight_eq_div_pow]
  omega

/-- The OP field's value (R72). -/
theorem op_eq (c : Word) {k : Nat} (hk : k < 16) : c.extractLsb' 0 4 = BitVec.ofNat 4 k ↔ c.toNat % 16 = k := by
  rw [← BitVec.toNat_inj]
  simp
  omega

/-- The W field's value (R72). -/
theorem wField_eq (c : Word) {k : Nat} (hk : k < 4) :
    c.extractLsb' 4 2 = BitVec.ofNat 2 k ↔ c.toNat / 16 % 4 = k := by
  rw [← BitVec.toNat_inj]
  simp [Nat.shiftRight_eq_div_pow]
  omega

theorem decodeCmd_srst : decodeCmd 0x0000000F = .srst := by decide

/-- The register found at an index has that word offset (R23). -/
theorem Reg.offset_of_ofIndex {n : Nat} {r : Reg} (h : Reg.ofIndex n = some r) : r.offset = 4 * n := by
  unfold Reg.ofIndex at h
  split at h <;> simp at h <;> subst h <;> rfl

/-- An admitted access is 4 bytes wide and at its register's offset (R53, R180). -/
theorem admitAccess_ok {off width : Nat} {r : Reg} (h : admitAccess off width = .ok r) : width = 4 ∧ off = r.offset := by
  unfold admitAccess at h
  split at h
  · cases h
  · split at h
    · cases h
    · split at h
      · rename_i hr
        cases h
        have := Reg.offset_of_ofIndex hr
        omega
      · cases h

/-- A 4-byte access at a register's offset is admitted (R180). -/
theorem admitAccess_offset (r : Reg) : admitAccess r.offset 4 = .ok r := by cases r <;> rfl

theorem decode_readOf (r : Reg) : decode (readOf r) = .ok r.readInstr := by cases r <;> rfl

theorem decode_writeOf (r : Reg) (data : Word) : decode (writeOf r data) = .ok (r.writeInstr data) := by cases r <;> rfl

end Sys2Proof
end

