-- ==== Sys2Proof/Laws/Memory.lean ====
section
/-! SUPPORT. Laws of the buffers: every operation keeps the canonical form and the bound, a read after a write to the same
index gives the byte written, and a write leaves every other index alone. -/

namespace Sys2Proof.Machine

theorem Memory.wf_nil : Memory.wf [] := by simp [Memory.wf]

theorem Memory.below_nil (n : Nat) : Memory.below [] n := by simp [Memory.below]

theorem Memory.wf_tail {c : Host.Cell} {m : Memory} (h : Memory.wf (c :: m)) : Memory.wf m :=
  ⟨(List.pairwise_cons.mp h.1).2, fun d hd => h.2 d (List.mem_cons_of_mem _ hd)⟩

theorem Memory.wf_head_lt {c : Host.Cell} {m : Memory} (h : Memory.wf (c :: m)) : ∀ d ∈ m, c.1 < d.1 :=
  (List.pairwise_cons.mp h.1).1

@[simp] theorem Memory.read_nil (i : Nat) : Memory.read [] i = Memory.blank := rfl

/-- An index below every listed one reads as blank. -/
theorem Memory.read_of_lt {m : Memory} {i : Nat} (h : ∀ c ∈ m, i < c.1) : Memory.read m i = Memory.blank := by
  cases m with
  | nil => rfl
  | cons c m => simp [Memory.read, h c (List.mem_cons_self ..)]

/-- A written buffer lists the index written and nothing new beside it. -/
theorem Memory.mem_write {m : Memory} {i : Nat} {b : Byte} {c : Host.Cell} (h : c ∈ Memory.write m i b) :
    c ∈ m ∨ (c = (i, b) ∧ b ≠ Memory.blank) := by
  induction m with
  | nil =>
    by_cases hb : b = 0#8
    · simp [Memory.write, hb] at h
    · simp [Memory.write, hb] at h
      exact .inr ⟨h, hb⟩
  | cons d m ih =>
    obtain ⟨a, x⟩ := d
    simp only [Memory.write] at h
    split at h
    · split at h
      · exact .inl h
      · rcases List.mem_cons.mp h with h | h
        · exact .inr ⟨h, ‹_›⟩
        · exact .inl h
    · split at h
      · split at h
        · exact .inl (List.mem_cons_of_mem _ h)
        · rcases List.mem_cons.mp h with h | h
          · exact .inr ⟨h, ‹_›⟩
          · exact .inl (List.mem_cons_of_mem _ h)
      · rcases List.mem_cons.mp h with h | h
        · exact .inl (h ▸ List.mem_cons_self ..)
        · rcases ih h with h | h
          · exact .inl (List.mem_cons_of_mem _ h)
          · exact .inr h

/-- A write keeps the canonical form. -/
theorem Memory.wf_write {m : Memory} (h : Memory.wf m) (i : Nat) (b : Byte) : Memory.wf (Memory.write m i b) := by
  induction m with
  | nil =>
    by_cases hb : b = 0#8 <;> simp [Memory.write, Memory.wf, hb]
  | cons d m ih =>
    obtain ⟨a, x⟩ := d
    have hlt := Memory.wf_head_lt h
    simp only [Memory.write]
    split
    · split
      · exact h
      · refine ⟨List.pairwise_cons.mpr ⟨?_, h.1⟩, ?_⟩
        · intro c hc
          rcases List.mem_cons.mp hc with rfl | hc
          · assumption
          · exact Nat.lt_trans ‹i < a› (hlt c hc)
        · intro c hc
          rcases List.mem_cons.mp hc with rfl | hc
          · assumption
          · exact h.2 c hc
    · split
      · subst i
        split
        · exact Memory.wf_tail h
        · refine ⟨List.pairwise_cons.mpr ⟨hlt, (Memory.wf_tail h).1⟩, ?_⟩
          intro c hc
          rcases List.mem_cons.mp hc with rfl | hc
          · assumption
          · exact h.2 c (List.mem_cons_of_mem _ hc)
      · have iht := ih (Memory.wf_tail h)
        refine ⟨List.pairwise_cons.mpr ⟨?_, iht.1⟩, ?_⟩
        · intro c hc
          rcases Memory.mem_write hc with hc | ⟨rfl, -⟩
          · exact hlt c hc
          · show a < i
            omega
        · intro c hc
          rcases List.mem_cons.mp hc with rfl | hc
          · exact h.2 _ (List.mem_cons_self ..)
          · exact iht.2 c hc

/-- A write below the bound keeps the bound. -/
theorem Memory.below_write {m : Memory} {n i : Nat} (h : Memory.below m n) (hi : i < n) (b : Byte) :
    Memory.below (Memory.write m i b) n := by
  intro c hc
  rcases Memory.mem_write hc with hc | ⟨rfl, -⟩
  · exact h c hc
  · exact hi

/-- A read of the index written gives the byte written. -/
theorem Memory.read_write_same {m : Memory} (h : Memory.wf m) (i : Nat) (b : Byte) :
    Memory.read (Memory.write m i b) i = b := by
  induction m with
  | nil => by_cases hb : b = 0#8 <;> simp [Memory.write, Memory.read, hb]
  | cons d m ih =>
    obtain ⟨a, x⟩ := d
    simp only [Memory.write]
    split
    · by_cases hb : b = 0#8 <;> simp [Memory.read, *]
    · split
      · subst i
        by_cases hb : b = 0#8
        · simpa [hb] using Memory.read_of_lt (Memory.wf_head_lt h)
        · simp [Memory.read, hb]
      · simpa [Memory.read, *] using ih (Memory.wf_tail h)

/-- A write leaves every other index alone. -/
theorem Memory.read_write_other {m : Memory} (h : Memory.wf m) {i j : Nat} (hij : j ≠ i) (b : Byte) :
    Memory.read (Memory.write m i b) j = Memory.read m j := by
  induction m with
  | nil =>
    by_cases hb : b = 0#8
    · simp [Memory.write, hb]
    · simp [Memory.write, Memory.read, hb, hij]
  | cons d m ih =>
    obtain ⟨a, x⟩ := d
    simp only [Memory.write]
    split
    · by_cases hb : b = 0#8
      · simp [hb]
      · rcases Nat.lt_or_gt_of_ne hij with hji | hji
        · have hja : j < a := by omega
          simp [Memory.read, hb, hji, hja]
        · simp [Memory.read, hb, hij, Nat.not_lt.mpr (Nat.le_of_lt hji)]
    · split
      · subst i
        by_cases hb : b = 0#8
        · rcases Nat.lt_or_gt_of_ne hij with hji | hji
          · have : Memory.read m j = Memory.blank :=
              Memory.read_of_lt fun c hc => Nat.lt_trans hji (Memory.wf_head_lt h c hc)
            simp [Memory.read, hb, hji, this]
          · simp [Memory.read, hb, hij, Nat.not_lt.mpr (Nat.le_of_lt hji)]
        · simp [Memory.read, hb, hij]
      · simp [Memory.read, ih (Memory.wf_tail h)]

/-- Writing a list keeps the canonical form. -/
theorem Memory.wf_writeList {m : Memory} (h : Memory.wf m) (i : Nat) (bs : List Byte) :
    Memory.wf (Memory.writeList m i bs) := by
  induction bs generalizing m i with
  | nil => exact h
  | cons b bs ih => exact ih (Memory.wf_write h i b) (i + 1)

/-- Writing a list below the bound keeps the bound. -/
theorem Memory.below_writeList {m : Memory} {n i : Nat} {bs : List Byte} (h : Memory.below m n)
    (hi : i + bs.length ≤ n) : Memory.below (Memory.writeList m i bs) n := by
  induction bs generalizing m i with
  | nil => exact h
  | cons b bs ih =>
    simp only [List.length_cons] at hi
    exact ih (Memory.below_write h (by omega) b) (by omega)

/-- Writing a list leaves every index outside it alone. -/
theorem Memory.read_writeList_outside {m : Memory} (h : Memory.wf m) {i j : Nat} {bs : List Byte}
    (hj : j < i ∨ i + bs.length ≤ j) : Memory.read (Memory.writeList m i bs) j = Memory.read m j := by
  induction bs generalizing m i with
  | nil => rfl
  | cons b bs ih =>
    simp only [List.length_cons] at hj
    have h1 := ih (Memory.wf_write h i b) (i := i + 1) (by omega)
    have h2 := Memory.read_write_other h (i := i) (j := j) (by omega) b
    exact h1.trans h2

/-- The bytes read back are the bytes written. -/
theorem Memory.readList_writeList {m : Memory} (h : Memory.wf m) (i : Nat) (bs : List Byte) :
    Memory.readList (Memory.writeList m i bs) i bs.length = bs := by
  induction bs generalizing m i with
  | nil => rfl
  | cons b bs ih =>
    have h1 := Memory.read_writeList_outside (Memory.wf_write h i b) (i := i + 1) (j := i) (bs := bs) (by omega)
    simp only [Memory.writeList, List.length_cons, Memory.readList]
    rw [h1, Memory.read_write_same h, ih (Memory.wf_write h i b)]

@[simp] theorem Memory.length_readList (m : Memory) (i n : Nat) : (Memory.readList m i n).length = n := by
  induction n generalizing i with
  | zero => rfl
  | succ n ih => simp [Memory.readList, ih]

/-- The last byte of a longer read. -/
theorem Memory.readList_succ (m : Memory) (i n : Nat) :
    Memory.readList m i (n + 1) = Memory.readList m i n ++ [Memory.read m (i + n)] := by
  induction n generalizing i with
  | zero => simp [Memory.readList]
  | succ n ih =>
    have := ih (i + 1)
    simp only [Memory.readList] at this ⊢
    rw [this, List.cons_append, Nat.add_right_comm, Nat.add_assoc]

/-- Two buffers with the same bytes at the indices read give the same list. -/
theorem Memory.readList_congr {m m' : Memory} {i n : Nat}
    (h : ∀ j, i ≤ j → j < i + n → Memory.read m j = Memory.read m' j) :
    Memory.readList m i n = Memory.readList m' i n := by
  induction n generalizing i with
  | zero => rfl
  | succ n ih =>
    simp only [Memory.readList]
    rw [h i (Nat.le_refl i) (by omega), ih fun j h1 h2 => h j (by omega) (by omega)]

theorem reset_ibuf_wf : Memory.wf State.reset.ibuf := Memory.wf_nil

theorem reset_obuf_wf : Memory.wf State.reset.obuf := Memory.wf_nil

end Sys2Proof.Machine
end

