-- ==== Sys2Proof/Laws/State.lean ====
section
/-! SUPPORT. Every field after every shared state update, and every STATUS field after every STATUS update. -/

namespace Sys2Proof.Machine

@[simp] theorem Status.complete_busy (st : Status) (r : Result) (d : BitVec 4) :
    (st.complete r d).busy = false := rfl
@[simp] theorem Status.complete_done (st : Status) (r : Result) (d : BitVec 4) :
    (st.complete r d).done = true := rfl
@[simp] theorem Status.complete_ok (st : Status) (r : Result) (d : BitVec 4) :
    (st.complete r d).ok = decide (r = .success) := rfl
@[simp] theorem Status.complete_result (st : Status) (r : Result) (d : BitVec 4) :
    (st.complete r d).result = r := rfl
@[simp] theorem Status.complete_detail (st : Status) (r : Result) (d : BitVec 4) :
    (st.complete r d).detail = d := rfl
@[simp] theorem Status.complete_hdrValid (st : Status) (r : Result) (d : BitVec 4) :
    (st.complete r d).hdrValid = st.hdrValid := rfl
@[simp] theorem Status.complete_outValid (st : Status) (r : Result) (d : BitVec 4) :
    (st.complete r d).outValid = st.outValid := rfl
@[simp] theorem Status.complete_inOvf (st : Status) (r : Result) (d : BitVec 4) :
    (st.complete r d).inOvf = st.inOvf := rfl
@[simp] theorem Status.complete_outUnf (st : Status) (r : Result) (d : BitVec 4) :
    (st.complete r d).outUnf = st.outUnf := rfl
@[simp] theorem Status.complete_busyViol (st : Status) (r : Result) (d : BitVec 4) :
    (st.complete r d).busyViol = st.busyViol := rfl

@[simp] theorem Status.accept_busy (st : Status) :
    (st.accept).busy = true := rfl
@[simp] theorem Status.accept_done (st : Status) :
    (st.accept).done = false := rfl
@[simp] theorem Status.accept_ok (st : Status) :
    (st.accept).ok = false := rfl
@[simp] theorem Status.accept_result (st : Status) :
    (st.accept).result = .success := rfl
@[simp] theorem Status.accept_detail (st : Status) :
    (st.accept).detail = 0 := rfl
@[simp] theorem Status.accept_hdrValid (st : Status) :
    (st.accept).hdrValid = st.hdrValid := rfl
@[simp] theorem Status.accept_outValid (st : Status) :
    (st.accept).outValid = st.outValid := rfl
@[simp] theorem Status.accept_inOvf (st : Status) :
    (st.accept).inOvf = st.inOvf := rfl
@[simp] theorem Status.accept_outUnf (st : Status) :
    (st.accept).outUnf = st.outUnf := rfl
@[simp] theorem Status.accept_busyViol (st : Status) :
    (st.accept).busyViol = st.busyViol := rfl

@[simp] theorem Status.clearSticky_busy (st : Status) (data : Word) :
    (st.clearSticky data).busy = st.busy := rfl
@[simp] theorem Status.clearSticky_done (st : Status) (data : Word) :
    (st.clearSticky data).done = st.done := rfl
@[simp] theorem Status.clearSticky_ok (st : Status) (data : Word) :
    (st.clearSticky data).ok = st.ok := rfl
@[simp] theorem Status.clearSticky_result (st : Status) (data : Word) :
    (st.clearSticky data).result = st.result := rfl
@[simp] theorem Status.clearSticky_detail (st : Status) (data : Word) :
    (st.clearSticky data).detail = st.detail := rfl
@[simp] theorem Status.clearSticky_hdrValid (st : Status) (data : Word) :
    (st.clearSticky data).hdrValid = st.hdrValid := rfl
@[simp] theorem Status.clearSticky_outValid (st : Status) (data : Word) :
    (st.clearSticky data).outValid = st.outValid := rfl
@[simp] theorem Status.clearSticky_inOvf (st : Status) (data : Word) :
    (st.clearSticky data).inOvf = (st.inOvf && !data.getLsbD 24) := rfl
@[simp] theorem Status.clearSticky_outUnf (st : Status) (data : Word) :
    (st.clearSticky data).outUnf = (st.outUnf && !data.getLsbD 25) := rfl
@[simp] theorem Status.clearSticky_busyViol (st : Status) (data : Word) :
    (st.clearSticky data).busyViol = (st.busyViol && !data.getLsbD 26) := rfl

@[simp] theorem State.complete_status (s : State) (r : Result) (d : BitVec 4) :
    (s.complete r d).status = s.status.complete r d := rfl
@[simp] theorem State.complete_size (s : State) (r : Result) (d : BitVec 4) :
    (s.complete r d).size = s.size := rfl
@[simp] theorem State.complete_inLen (s : State) (r : Result) (d : BitVec 4) :
    (s.complete r d).inLen = s.inLen := rfl
@[simp] theorem State.complete_outLen (s : State) (r : Result) (d : BitVec 4) :
    (s.complete r d).outLen = s.outLen := rfl
@[simp] theorem State.complete_outPtr (s : State) (r : Result) (d : BitVec 4) :
    (s.complete r d).outPtr = s.outPtr := rfl
@[simp] theorem State.complete_hdrLen (s : State) (r : Result) (d : BitVec 4) :
    (s.complete r d).hdrLen = s.hdrLen := rfl
@[simp] theorem State.complete_hb (s : State) (r : Result) (d : BitVec 4) :
    (s.complete r d).hb = s.hb := rfl
@[simp] theorem State.complete_latOp (s : State) (r : Result) (d : BitVec 4) :
    (s.complete r d).latOp = .none := rfl
@[simp] theorem State.complete_latW (s : State) (r : Result) (d : BitVec 4) :
    (s.complete r d).latW = s.latW := rfl
@[simp] theorem State.complete_latSize (s : State) (r : Result) (d : BitVec 4) :
    (s.complete r d).latSize = s.latSize := rfl
@[simp] theorem State.complete_ibuf (s : State) (r : Result) (d : BitVec 4) :
    (s.complete r d).ibuf = s.ibuf := rfl
@[simp] theorem State.complete_obuf (s : State) (r : Result) (d : BitVec 4) :
    (s.complete r d).obuf = s.obuf := rfl
@[simp] theorem State.complete_bus (s : State) (r : Result) (d : BitVec 4) :
    (s.complete r d).bus = s.bus := rfl
@[simp] theorem State.complete_reads (s : State) (r : Result) (d : BitVec 4) :
    (s.complete r d).reads = s.reads := rfl
@[simp] theorem State.complete_engineWait (s : State) (r : Result) (d : BitVec 4) :
    (s.complete r d).engineWait = s.engineWait := rfl
@[simp] theorem State.complete_draws (s : State) (r : Result) (d : BitVec 4) :
    (s.complete r d).draws = s.draws := rfl

@[simp] theorem State.accept_status (s : State) (op : LatOp) (w : Width) :
    (s.accept op w).status = s.status.accept := rfl
@[simp] theorem State.accept_size (s : State) (op : LatOp) (w : Width) :
    (s.accept op w).size = s.size := rfl
@[simp] theorem State.accept_inLen (s : State) (op : LatOp) (w : Width) :
    (s.accept op w).inLen = s.inLen := rfl
@[simp] theorem State.accept_outLen (s : State) (op : LatOp) (w : Width) :
    (s.accept op w).outLen = s.outLen := rfl
@[simp] theorem State.accept_outPtr (s : State) (op : LatOp) (w : Width) :
    (s.accept op w).outPtr = s.outPtr := rfl
@[simp] theorem State.accept_hdrLen (s : State) (op : LatOp) (w : Width) :
    (s.accept op w).hdrLen = s.hdrLen := rfl
@[simp] theorem State.accept_hb (s : State) (op : LatOp) (w : Width) :
    (s.accept op w).hb = s.hb := rfl
@[simp] theorem State.accept_latOp (s : State) (op : LatOp) (w : Width) :
    (s.accept op w).latOp = op := rfl
@[simp] theorem State.accept_latW (s : State) (op : LatOp) (w : Width) :
    (s.accept op w).latW = w := rfl
@[simp] theorem State.accept_latSize (s : State) (op : LatOp) (w : Width) :
    (s.accept op w).latSize = s.latSize := rfl
@[simp] theorem State.accept_ibuf (s : State) (op : LatOp) (w : Width) :
    (s.accept op w).ibuf = s.ibuf := rfl
@[simp] theorem State.accept_obuf (s : State) (op : LatOp) (w : Width) :
    (s.accept op w).obuf = s.obuf := rfl
@[simp] theorem State.accept_bus (s : State) (op : LatOp) (w : Width) :
    (s.accept op w).bus = s.bus := rfl
@[simp] theorem State.accept_reads (s : State) (op : LatOp) (w : Width) :
    (s.accept op w).reads = s.reads := rfl
@[simp] theorem State.accept_engineWait (s : State) (op : LatOp) (w : Width) :
    (s.accept op w).engineWait = Config.engineDelay s.draws := rfl
@[simp] theorem State.accept_draws (s : State) (op : LatOp) (w : Width) :
    (s.accept op w).draws = s.draws + 1 := rfl

@[simp] theorem State.resetCore_status (s : State) :
    (s.resetCore).status = Status.reset := rfl
@[simp] theorem State.resetCore_size (s : State) :
    (s.resetCore).size = 0 := rfl
@[simp] theorem State.resetCore_inLen (s : State) :
    (s.resetCore).inLen = 0 := rfl
@[simp] theorem State.resetCore_outLen (s : State) :
    (s.resetCore).outLen = 0 := rfl
@[simp] theorem State.resetCore_outPtr (s : State) :
    (s.resetCore).outPtr = 0 := rfl
@[simp] theorem State.resetCore_hdrLen (s : State) :
    (s.resetCore).hdrLen = 0 := rfl
@[simp] theorem State.resetCore_hb (s : State) :
    (s.resetCore).hb = #v[0, 0, 0, 0, 0, 0, 0, 0] := rfl
@[simp] theorem State.resetCore_latOp (s : State) :
    (s.resetCore).latOp = .none := rfl
@[simp] theorem State.resetCore_latW (s : State) :
    (s.resetCore).latW = .byte := rfl
@[simp] theorem State.resetCore_latSize (s : State) :
    (s.resetCore).latSize = 0 := rfl
@[simp] theorem State.resetCore_ibuf (s : State) :
    (s.resetCore).ibuf = s.ibuf := rfl
@[simp] theorem State.resetCore_obuf (s : State) :
    (s.resetCore).obuf = s.obuf := rfl
@[simp] theorem State.resetCore_bus (s : State) :
    (s.resetCore).bus = s.bus := rfl
@[simp] theorem State.resetCore_reads (s : State) :
    (s.resetCore).reads = s.reads := rfl
@[simp] theorem State.resetCore_engineWait (s : State) :
    (s.resetCore).engineWait = s.engineWait := rfl
@[simp] theorem State.resetCore_draws (s : State) :
    (s.resetCore).draws = s.draws := rfl

@[simp] theorem State.setBusyViol_status (s : State) :
    (s.setBusyViol).status = { s.status with busyViol := true } := rfl
@[simp] theorem State.setBusyViol_size (s : State) :
    (s.setBusyViol).size = s.size := rfl
@[simp] theorem State.setBusyViol_inLen (s : State) :
    (s.setBusyViol).inLen = s.inLen := rfl
@[simp] theorem State.setBusyViol_outLen (s : State) :
    (s.setBusyViol).outLen = s.outLen := rfl
@[simp] theorem State.setBusyViol_outPtr (s : State) :
    (s.setBusyViol).outPtr = s.outPtr := rfl
@[simp] theorem State.setBusyViol_hdrLen (s : State) :
    (s.setBusyViol).hdrLen = s.hdrLen := rfl
@[simp] theorem State.setBusyViol_hb (s : State) :
    (s.setBusyViol).hb = s.hb := rfl
@[simp] theorem State.setBusyViol_latOp (s : State) :
    (s.setBusyViol).latOp = s.latOp := rfl
@[simp] theorem State.setBusyViol_latW (s : State) :
    (s.setBusyViol).latW = s.latW := rfl
@[simp] theorem State.setBusyViol_latSize (s : State) :
    (s.setBusyViol).latSize = s.latSize := rfl
@[simp] theorem State.setBusyViol_ibuf (s : State) :
    (s.setBusyViol).ibuf = s.ibuf := rfl
@[simp] theorem State.setBusyViol_obuf (s : State) :
    (s.setBusyViol).obuf = s.obuf := rfl
@[simp] theorem State.setBusyViol_bus (s : State) :
    (s.setBusyViol).bus = s.bus := rfl
@[simp] theorem State.setBusyViol_reads (s : State) :
    (s.setBusyViol).reads = s.reads := rfl
@[simp] theorem State.setBusyViol_engineWait (s : State) :
    (s.setBusyViol).engineWait = s.engineWait := rfl
@[simp] theorem State.setBusyViol_draws (s : State) :
    (s.setBusyViol).draws = s.draws := rfl

@[simp] theorem State.setInOvf_status (s : State) :
    (s.setInOvf).status = { s.status with inOvf := true } := rfl
@[simp] theorem State.setInOvf_size (s : State) :
    (s.setInOvf).size = s.size := rfl
@[simp] theorem State.setInOvf_inLen (s : State) :
    (s.setInOvf).inLen = s.inLen := rfl
@[simp] theorem State.setInOvf_outLen (s : State) :
    (s.setInOvf).outLen = s.outLen := rfl
@[simp] theorem State.setInOvf_outPtr (s : State) :
    (s.setInOvf).outPtr = s.outPtr := rfl
@[simp] theorem State.setInOvf_hdrLen (s : State) :
    (s.setInOvf).hdrLen = s.hdrLen := rfl
@[simp] theorem State.setInOvf_hb (s : State) :
    (s.setInOvf).hb = s.hb := rfl
@[simp] theorem State.setInOvf_latOp (s : State) :
    (s.setInOvf).latOp = s.latOp := rfl
@[simp] theorem State.setInOvf_latW (s : State) :
    (s.setInOvf).latW = s.latW := rfl
@[simp] theorem State.setInOvf_latSize (s : State) :
    (s.setInOvf).latSize = s.latSize := rfl
@[simp] theorem State.setInOvf_ibuf (s : State) :
    (s.setInOvf).ibuf = s.ibuf := rfl
@[simp] theorem State.setInOvf_obuf (s : State) :
    (s.setInOvf).obuf = s.obuf := rfl
@[simp] theorem State.setInOvf_bus (s : State) :
    (s.setInOvf).bus = s.bus := rfl
@[simp] theorem State.setInOvf_reads (s : State) :
    (s.setInOvf).reads = s.reads := rfl
@[simp] theorem State.setInOvf_engineWait (s : State) :
    (s.setInOvf).engineWait = s.engineWait := rfl
@[simp] theorem State.setInOvf_draws (s : State) :
    (s.setInOvf).draws = s.draws := rfl

@[simp] theorem State.setOutUnf_status (s : State) :
    (s.setOutUnf).status = { s.status with outUnf := true } := rfl
@[simp] theorem State.setOutUnf_size (s : State) :
    (s.setOutUnf).size = s.size := rfl
@[simp] theorem State.setOutUnf_inLen (s : State) :
    (s.setOutUnf).inLen = s.inLen := rfl
@[simp] theorem State.setOutUnf_outLen (s : State) :
    (s.setOutUnf).outLen = s.outLen := rfl
@[simp] theorem State.setOutUnf_outPtr (s : State) :
    (s.setOutUnf).outPtr = s.outPtr := rfl
@[simp] theorem State.setOutUnf_hdrLen (s : State) :
    (s.setOutUnf).hdrLen = s.hdrLen := rfl
@[simp] theorem State.setOutUnf_hb (s : State) :
    (s.setOutUnf).hb = s.hb := rfl
@[simp] theorem State.setOutUnf_latOp (s : State) :
    (s.setOutUnf).latOp = s.latOp := rfl
@[simp] theorem State.setOutUnf_latW (s : State) :
    (s.setOutUnf).latW = s.latW := rfl
@[simp] theorem State.setOutUnf_latSize (s : State) :
    (s.setOutUnf).latSize = s.latSize := rfl
@[simp] theorem State.setOutUnf_ibuf (s : State) :
    (s.setOutUnf).ibuf = s.ibuf := rfl
@[simp] theorem State.setOutUnf_obuf (s : State) :
    (s.setOutUnf).obuf = s.obuf := rfl
@[simp] theorem State.setOutUnf_bus (s : State) :
    (s.setOutUnf).bus = s.bus := rfl
@[simp] theorem State.setOutUnf_reads (s : State) :
    (s.setOutUnf).reads = s.reads := rfl
@[simp] theorem State.setOutUnf_engineWait (s : State) :
    (s.setOutUnf).engineWait = s.engineWait := rfl
@[simp] theorem State.setOutUnf_draws (s : State) :
    (s.setOutUnf).draws = s.draws := rfl

@[simp] theorem State.clearSticky_status (s : State) (data : Word) :
    (s.clearSticky data).status = s.status.clearSticky data := rfl
@[simp] theorem State.clearSticky_size (s : State) (data : Word) :
    (s.clearSticky data).size = s.size := rfl
@[simp] theorem State.clearSticky_inLen (s : State) (data : Word) :
    (s.clearSticky data).inLen = s.inLen := rfl
@[simp] theorem State.clearSticky_outLen (s : State) (data : Word) :
    (s.clearSticky data).outLen = s.outLen := rfl
@[simp] theorem State.clearSticky_outPtr (s : State) (data : Word) :
    (s.clearSticky data).outPtr = s.outPtr := rfl
@[simp] theorem State.clearSticky_hdrLen (s : State) (data : Word) :
    (s.clearSticky data).hdrLen = s.hdrLen := rfl
@[simp] theorem State.clearSticky_hb (s : State) (data : Word) :
    (s.clearSticky data).hb = s.hb := rfl
@[simp] theorem State.clearSticky_latOp (s : State) (data : Word) :
    (s.clearSticky data).latOp = s.latOp := rfl
@[simp] theorem State.clearSticky_latW (s : State) (data : Word) :
    (s.clearSticky data).latW = s.latW := rfl
@[simp] theorem State.clearSticky_latSize (s : State) (data : Word) :
    (s.clearSticky data).latSize = s.latSize := rfl
@[simp] theorem State.clearSticky_ibuf (s : State) (data : Word) :
    (s.clearSticky data).ibuf = s.ibuf := rfl
@[simp] theorem State.clearSticky_obuf (s : State) (data : Word) :
    (s.clearSticky data).obuf = s.obuf := rfl
@[simp] theorem State.clearSticky_bus (s : State) (data : Word) :
    (s.clearSticky data).bus = s.bus := rfl
@[simp] theorem State.clearSticky_reads (s : State) (data : Word) :
    (s.clearSticky data).reads = s.reads := rfl
@[simp] theorem State.clearSticky_engineWait (s : State) (data : Word) :
    (s.clearSticky data).engineWait = s.engineWait := rfl
@[simp] theorem State.clearSticky_draws (s : State) (data : Word) :
    (s.clearSticky data).draws = s.draws := rfl

@[simp] theorem State.returnRead_status (s : State) (v : Word) :
    (s.returnRead v).status = s.status := rfl
@[simp] theorem State.returnRead_size (s : State) (v : Word) :
    (s.returnRead v).size = s.size := rfl
@[simp] theorem State.returnRead_inLen (s : State) (v : Word) :
    (s.returnRead v).inLen = s.inLen := rfl
@[simp] theorem State.returnRead_outLen (s : State) (v : Word) :
    (s.returnRead v).outLen = s.outLen := rfl
@[simp] theorem State.returnRead_outPtr (s : State) (v : Word) :
    (s.returnRead v).outPtr = s.outPtr := rfl
@[simp] theorem State.returnRead_hdrLen (s : State) (v : Word) :
    (s.returnRead v).hdrLen = s.hdrLen := rfl
@[simp] theorem State.returnRead_hb (s : State) (v : Word) :
    (s.returnRead v).hb = s.hb := rfl
@[simp] theorem State.returnRead_latOp (s : State) (v : Word) :
    (s.returnRead v).latOp = s.latOp := rfl
@[simp] theorem State.returnRead_latW (s : State) (v : Word) :
    (s.returnRead v).latW = s.latW := rfl
@[simp] theorem State.returnRead_latSize (s : State) (v : Word) :
    (s.returnRead v).latSize = s.latSize := rfl
@[simp] theorem State.returnRead_ibuf (s : State) (v : Word) :
    (s.returnRead v).ibuf = s.ibuf := rfl
@[simp] theorem State.returnRead_obuf (s : State) (v : Word) :
    (s.returnRead v).obuf = s.obuf := rfl
@[simp] theorem State.returnRead_bus (s : State) (v : Word) :
    (s.returnRead v).bus = s.bus := rfl
@[simp] theorem State.returnRead_reads (s : State) (v : Word) :
    (s.returnRead v).reads = v :: s.reads := rfl
@[simp] theorem State.returnRead_engineWait (s : State) (v : Word) :
    (s.returnRead v).engineWait = s.engineWait := rfl
@[simp] theorem State.returnRead_draws (s : State) (v : Word) :
    (s.returnRead v).draws = s.draws := rfl

@[simp] theorem State.outClear_status (s : State) :
    (s.outClear).status = { s.status with outValid := false } := rfl
@[simp] theorem State.outClear_size (s : State) :
    (s.outClear).size = s.size := rfl
@[simp] theorem State.outClear_inLen (s : State) :
    (s.outClear).inLen = s.inLen := rfl
@[simp] theorem State.outClear_outLen (s : State) :
    (s.outClear).outLen = 0 := rfl
@[simp] theorem State.outClear_outPtr (s : State) :
    (s.outClear).outPtr = 0 := rfl
@[simp] theorem State.outClear_hdrLen (s : State) :
    (s.outClear).hdrLen = s.hdrLen := rfl
@[simp] theorem State.outClear_hb (s : State) :
    (s.outClear).hb = s.hb := rfl
@[simp] theorem State.outClear_latOp (s : State) :
    (s.outClear).latOp = s.latOp := rfl
@[simp] theorem State.outClear_latW (s : State) :
    (s.outClear).latW = s.latW := rfl
@[simp] theorem State.outClear_latSize (s : State) :
    (s.outClear).latSize = s.latSize := rfl
@[simp] theorem State.outClear_ibuf (s : State) :
    (s.outClear).ibuf = s.ibuf := rfl
@[simp] theorem State.outClear_obuf (s : State) :
    (s.outClear).obuf = s.obuf := rfl
@[simp] theorem State.outClear_bus (s : State) :
    (s.outClear).bus = s.bus := rfl
@[simp] theorem State.outClear_reads (s : State) :
    (s.outClear).reads = s.reads := rfl
@[simp] theorem State.outClear_engineWait (s : State) :
    (s.outClear).engineWait = s.engineWait := rfl
@[simp] theorem State.outClear_draws (s : State) :
    (s.outClear).draws = s.draws := rfl

@[simp] theorem takeEvent_status (s : State) (rest : List HostEvent) :
    (takeEvent rest s).status = s.status := rfl
@[simp] theorem takeEvent_size (s : State) (rest : List HostEvent) :
    (takeEvent rest s).size = s.size := rfl
@[simp] theorem takeEvent_inLen (s : State) (rest : List HostEvent) :
    (takeEvent rest s).inLen = s.inLen := rfl
@[simp] theorem takeEvent_outLen (s : State) (rest : List HostEvent) :
    (takeEvent rest s).outLen = s.outLen := rfl
@[simp] theorem takeEvent_outPtr (s : State) (rest : List HostEvent) :
    (takeEvent rest s).outPtr = s.outPtr := rfl
@[simp] theorem takeEvent_hdrLen (s : State) (rest : List HostEvent) :
    (takeEvent rest s).hdrLen = s.hdrLen := rfl
@[simp] theorem takeEvent_hb (s : State) (rest : List HostEvent) :
    (takeEvent rest s).hb = s.hb := rfl
@[simp] theorem takeEvent_latOp (s : State) (rest : List HostEvent) :
    (takeEvent rest s).latOp = s.latOp := rfl
@[simp] theorem takeEvent_latW (s : State) (rest : List HostEvent) :
    (takeEvent rest s).latW = s.latW := rfl
@[simp] theorem takeEvent_latSize (s : State) (rest : List HostEvent) :
    (takeEvent rest s).latSize = s.latSize := rfl
@[simp] theorem takeEvent_ibuf (s : State) (rest : List HostEvent) :
    (takeEvent rest s).ibuf = s.ibuf := rfl
@[simp] theorem takeEvent_obuf (s : State) (rest : List HostEvent) :
    (takeEvent rest s).obuf = s.obuf := rfl
@[simp] theorem takeEvent_bus (s : State) (rest : List HostEvent) :
    (takeEvent rest s).bus = rest := rfl
@[simp] theorem takeEvent_reads (s : State) (rest : List HostEvent) :
    (takeEvent rest s).reads = s.reads := rfl
@[simp] theorem takeEvent_engineWait (s : State) (rest : List HostEvent) :
    (takeEvent rest s).engineWait = s.engineWait - 1 := rfl
@[simp] theorem takeEvent_draws (s : State) (rest : List HostEvent) :
    (takeEvent rest s).draws = s.draws := rfl

@[simp] theorem placeEvent_status (s : State) (e : Encoded) :
    (placeEvent e s).status = s.status := rfl
@[simp] theorem placeEvent_size (s : State) (e : Encoded) :
    (placeEvent e s).size = s.size := rfl
@[simp] theorem placeEvent_inLen (s : State) (e : Encoded) :
    (placeEvent e s).inLen = s.inLen := rfl
@[simp] theorem placeEvent_outLen (s : State) (e : Encoded) :
    (placeEvent e s).outLen = s.outLen := rfl
@[simp] theorem placeEvent_outPtr (s : State) (e : Encoded) :
    (placeEvent e s).outPtr = s.outPtr := rfl
@[simp] theorem placeEvent_hdrLen (s : State) (e : Encoded) :
    (placeEvent e s).hdrLen = s.hdrLen := rfl
@[simp] theorem placeEvent_hb (s : State) (e : Encoded) :
    (placeEvent e s).hb = s.hb := rfl
@[simp] theorem placeEvent_latOp (s : State) (e : Encoded) :
    (placeEvent e s).latOp = s.latOp := rfl
@[simp] theorem placeEvent_latW (s : State) (e : Encoded) :
    (placeEvent e s).latW = s.latW := rfl
@[simp] theorem placeEvent_latSize (s : State) (e : Encoded) :
    (placeEvent e s).latSize = s.latSize := rfl
@[simp] theorem placeEvent_ibuf (s : State) (e : Encoded) :
    (placeEvent e s).ibuf = s.ibuf := rfl
@[simp] theorem placeEvent_obuf (s : State) (e : Encoded) :
    (placeEvent e s).obuf = s.obuf := rfl
@[simp] theorem placeEvent_bus (s : State) (e : Encoded) :
    (placeEvent e s).bus = .issue e :: s.bus := rfl
@[simp] theorem placeEvent_reads (s : State) (e : Encoded) :
    (placeEvent e s).reads = s.reads := rfl
@[simp] theorem placeEvent_engineWait (s : State) (e : Encoded) :
    (placeEvent e s).engineWait = if s.latOp = .none then s.engineWait else max 1 s.engineWait := rfl
@[simp] theorem placeEvent_draws (s : State) (e : Encoded) :
    (placeEvent e s).draws = s.draws := rfl

@[simp] theorem hdrAccept_status (s : State) (w : Width) :
    (hdrAccept w s).status = { s.status.accept with hdrValid := false } := rfl
@[simp] theorem hdrAccept_size (s : State) (w : Width) :
    (hdrAccept w s).size = s.size := rfl
@[simp] theorem hdrAccept_inLen (s : State) (w : Width) :
    (hdrAccept w s).inLen = s.inLen := rfl
@[simp] theorem hdrAccept_outLen (s : State) (w : Width) :
    (hdrAccept w s).outLen = s.outLen := rfl
@[simp] theorem hdrAccept_outPtr (s : State) (w : Width) :
    (hdrAccept w s).outPtr = s.outPtr := rfl
@[simp] theorem hdrAccept_hdrLen (s : State) (w : Width) :
    (hdrAccept w s).hdrLen = 0 := rfl
@[simp] theorem hdrAccept_hb (s : State) (w : Width) :
    (hdrAccept w s).hb = #v[0, 0, 0, 0, 0, 0, 0, 0] := rfl
@[simp] theorem hdrAccept_latOp (s : State) (w : Width) :
    (hdrAccept w s).latOp = .hdr := rfl
@[simp] theorem hdrAccept_latW (s : State) (w : Width) :
    (hdrAccept w s).latW = w := rfl
@[simp] theorem hdrAccept_latSize (s : State) (w : Width) :
    (hdrAccept w s).latSize = s.size := rfl
@[simp] theorem hdrAccept_ibuf (s : State) (w : Width) :
    (hdrAccept w s).ibuf = s.ibuf := rfl
@[simp] theorem hdrAccept_obuf (s : State) (w : Width) :
    (hdrAccept w s).obuf = s.obuf := rfl
@[simp] theorem hdrAccept_bus (s : State) (w : Width) :
    (hdrAccept w s).bus = s.bus := rfl
@[simp] theorem hdrAccept_reads (s : State) (w : Width) :
    (hdrAccept w s).reads = s.reads := rfl
@[simp] theorem hdrAccept_engineWait (s : State) (w : Width) :
    (hdrAccept w s).engineWait = Config.engineDelay s.draws := rfl
@[simp] theorem hdrAccept_draws (s : State) (w : Width) :
    (hdrAccept w s).draws = s.draws + 1 := rfl

@[simp] theorem bodyAccept_status (s : State) (w : Width) :
    (bodyAccept w s).status = { s.status.accept with outValid := false } := rfl
@[simp] theorem bodyAccept_size (s : State) (w : Width) :
    (bodyAccept w s).size = s.size := rfl
@[simp] theorem bodyAccept_inLen (s : State) (w : Width) :
    (bodyAccept w s).inLen = s.inLen := rfl
@[simp] theorem bodyAccept_outLen (s : State) (w : Width) :
    (bodyAccept w s).outLen = 0 := rfl
@[simp] theorem bodyAccept_outPtr (s : State) (w : Width) :
    (bodyAccept w s).outPtr = 0 := rfl
@[simp] theorem bodyAccept_hdrLen (s : State) (w : Width) :
    (bodyAccept w s).hdrLen = s.hdrLen := rfl
@[simp] theorem bodyAccept_hb (s : State) (w : Width) :
    (bodyAccept w s).hb = s.hb := rfl
@[simp] theorem bodyAccept_latOp (s : State) (w : Width) :
    (bodyAccept w s).latOp = .body := rfl
@[simp] theorem bodyAccept_latW (s : State) (w : Width) :
    (bodyAccept w s).latW = w := rfl
@[simp] theorem bodyAccept_latSize (s : State) (w : Width) :
    (bodyAccept w s).latSize = s.latSize := rfl
@[simp] theorem bodyAccept_ibuf (s : State) (w : Width) :
    (bodyAccept w s).ibuf = s.ibuf := rfl
@[simp] theorem bodyAccept_obuf (s : State) (w : Width) :
    (bodyAccept w s).obuf = s.obuf := rfl
@[simp] theorem bodyAccept_bus (s : State) (w : Width) :
    (bodyAccept w s).bus = s.bus := rfl
@[simp] theorem bodyAccept_reads (s : State) (w : Width) :
    (bodyAccept w s).reads = s.reads := rfl
@[simp] theorem bodyAccept_engineWait (s : State) (w : Width) :
    (bodyAccept w s).engineWait = Config.engineDelay s.draws := rfl
@[simp] theorem bodyAccept_draws (s : State) (w : Width) :
    (bodyAccept w s).draws = s.draws + 1 := rfl

@[simp] theorem hdrComplete_status (s : State) :
    (hdrComplete s).status = { s.status with hdrValid := true }.complete .success 0 := rfl
@[simp] theorem hdrComplete_size (s : State) :
    (hdrComplete s).size = s.size := rfl
@[simp] theorem hdrComplete_inLen (s : State) :
    (hdrComplete s).inLen = s.inLen := rfl
@[simp] theorem hdrComplete_outLen (s : State) :
    (hdrComplete s).outLen = s.outLen := rfl
@[simp] theorem hdrComplete_outPtr (s : State) :
    (hdrComplete s).outPtr = s.outPtr := rfl
@[simp] theorem hdrComplete_hdrLen (s : State) :
    (hdrComplete s).hdrLen = (hdrBytes s.latSize s.latW).length := rfl
@[simp] theorem hdrComplete_hb (s : State) :
    (hdrComplete s).hb = headerStore (hdrBytes s.latSize s.latW) := rfl
@[simp] theorem hdrComplete_latOp (s : State) :
    (hdrComplete s).latOp = .none := rfl
@[simp] theorem hdrComplete_latW (s : State) :
    (hdrComplete s).latW = s.latW := rfl
@[simp] theorem hdrComplete_latSize (s : State) :
    (hdrComplete s).latSize = s.latSize := rfl
@[simp] theorem hdrComplete_ibuf (s : State) :
    (hdrComplete s).ibuf = s.ibuf := rfl
@[simp] theorem hdrComplete_obuf (s : State) :
    (hdrComplete s).obuf = s.obuf := rfl
@[simp] theorem hdrComplete_bus (s : State) :
    (hdrComplete s).bus = s.bus := rfl
@[simp] theorem hdrComplete_reads (s : State) :
    (hdrComplete s).reads = s.reads := rfl
@[simp] theorem hdrComplete_engineWait (s : State) :
    (hdrComplete s).engineWait = s.engineWait := rfl
@[simp] theorem hdrComplete_draws (s : State) :
    (hdrComplete s).draws = s.draws := rfl

@[simp] theorem clearInput_status (s : State) :
    (clearInput s).status = s.status.complete .success 0 := rfl
@[simp] theorem clearInput_size (s : State) :
    (clearInput s).size = s.size := rfl
@[simp] theorem clearInput_inLen (s : State) :
    (clearInput s).inLen = 0 := rfl
@[simp] theorem clearInput_outLen (s : State) :
    (clearInput s).outLen = s.outLen := rfl
@[simp] theorem clearInput_outPtr (s : State) :
    (clearInput s).outPtr = s.outPtr := rfl
@[simp] theorem clearInput_hdrLen (s : State) :
    (clearInput s).hdrLen = s.hdrLen := rfl
@[simp] theorem clearInput_hb (s : State) :
    (clearInput s).hb = s.hb := rfl
@[simp] theorem clearInput_latOp (s : State) :
    (clearInput s).latOp = .none := rfl
@[simp] theorem clearInput_latW (s : State) :
    (clearInput s).latW = s.latW := rfl
@[simp] theorem clearInput_latSize (s : State) :
    (clearInput s).latSize = s.latSize := rfl
@[simp] theorem clearInput_ibuf (s : State) :
    (clearInput s).ibuf = s.ibuf := rfl
@[simp] theorem clearInput_obuf (s : State) :
    (clearInput s).obuf = s.obuf := rfl
@[simp] theorem clearInput_bus (s : State) :
    (clearInput s).bus = s.bus := rfl
@[simp] theorem clearInput_reads (s : State) :
    (clearInput s).reads = s.reads := rfl
@[simp] theorem clearInput_engineWait (s : State) :
    (clearInput s).engineWait = s.engineWait := rfl
@[simp] theorem clearInput_draws (s : State) :
    (clearInput s).draws = s.draws := rfl

@[simp] theorem clearOutput_status (s : State) :
    (clearOutput s).status = { s.status with outValid := false }.complete .success 0 := rfl
@[simp] theorem clearOutput_size (s : State) :
    (clearOutput s).size = s.size := rfl
@[simp] theorem clearOutput_inLen (s : State) :
    (clearOutput s).inLen = s.inLen := rfl
@[simp] theorem clearOutput_outLen (s : State) :
    (clearOutput s).outLen = 0 := rfl
@[simp] theorem clearOutput_outPtr (s : State) :
    (clearOutput s).outPtr = 0 := rfl
@[simp] theorem clearOutput_hdrLen (s : State) :
    (clearOutput s).hdrLen = s.hdrLen := rfl
@[simp] theorem clearOutput_hb (s : State) :
    (clearOutput s).hb = s.hb := rfl
@[simp] theorem clearOutput_latOp (s : State) :
    (clearOutput s).latOp = .none := rfl
@[simp] theorem clearOutput_latW (s : State) :
    (clearOutput s).latW = s.latW := rfl
@[simp] theorem clearOutput_latSize (s : State) :
    (clearOutput s).latSize = s.latSize := rfl
@[simp] theorem clearOutput_ibuf (s : State) :
    (clearOutput s).ibuf = s.ibuf := rfl
@[simp] theorem clearOutput_obuf (s : State) :
    (clearOutput s).obuf = s.obuf := rfl
@[simp] theorem clearOutput_bus (s : State) :
    (clearOutput s).bus = s.bus := rfl
@[simp] theorem clearOutput_reads (s : State) :
    (clearOutput s).reads = s.reads := rfl
@[simp] theorem clearOutput_engineWait (s : State) :
    (clearOutput s).engineWait = s.engineWait := rfl
@[simp] theorem clearOutput_draws (s : State) :
    (clearOutput s).draws = s.draws := rfl

@[simp] theorem rewindOutput_status (s : State) :
    (rewindOutput s).status = s.status.complete .success 0 := rfl
@[simp] theorem rewindOutput_size (s : State) :
    (rewindOutput s).size = s.size := rfl
@[simp] theorem rewindOutput_inLen (s : State) :
    (rewindOutput s).inLen = s.inLen := rfl
@[simp] theorem rewindOutput_outLen (s : State) :
    (rewindOutput s).outLen = s.outLen := rfl
@[simp] theorem rewindOutput_outPtr (s : State) :
    (rewindOutput s).outPtr = 0 := rfl
@[simp] theorem rewindOutput_hdrLen (s : State) :
    (rewindOutput s).hdrLen = s.hdrLen := rfl
@[simp] theorem rewindOutput_hb (s : State) :
    (rewindOutput s).hb = s.hb := rfl
@[simp] theorem rewindOutput_latOp (s : State) :
    (rewindOutput s).latOp = .none := rfl
@[simp] theorem rewindOutput_latW (s : State) :
    (rewindOutput s).latW = s.latW := rfl
@[simp] theorem rewindOutput_latSize (s : State) :
    (rewindOutput s).latSize = s.latSize := rfl
@[simp] theorem rewindOutput_ibuf (s : State) :
    (rewindOutput s).ibuf = s.ibuf := rfl
@[simp] theorem rewindOutput_obuf (s : State) :
    (rewindOutput s).obuf = s.obuf := rfl
@[simp] theorem rewindOutput_bus (s : State) :
    (rewindOutput s).bus = s.bus := rfl
@[simp] theorem rewindOutput_reads (s : State) :
    (rewindOutput s).reads = s.reads := rfl
@[simp] theorem rewindOutput_engineWait (s : State) :
    (rewindOutput s).engineWait = s.engineWait := rfl
@[simp] theorem rewindOutput_draws (s : State) :
    (rewindOutput s).draws = s.draws := rfl

@[simp] theorem rejectWord_status (s : State) (d : BitVec 4) :
    (rejectWord d s).status = s.status.complete .illegal d := rfl
@[simp] theorem rejectWord_size (s : State) (d : BitVec 4) :
    (rejectWord d s).size = s.size := rfl
@[simp] theorem rejectWord_inLen (s : State) (d : BitVec 4) :
    (rejectWord d s).inLen = s.inLen := rfl
@[simp] theorem rejectWord_outLen (s : State) (d : BitVec 4) :
    (rejectWord d s).outLen = s.outLen := rfl
@[simp] theorem rejectWord_outPtr (s : State) (d : BitVec 4) :
    (rejectWord d s).outPtr = s.outPtr := rfl
@[simp] theorem rejectWord_hdrLen (s : State) (d : BitVec 4) :
    (rejectWord d s).hdrLen = s.hdrLen := rfl
@[simp] theorem rejectWord_hb (s : State) (d : BitVec 4) :
    (rejectWord d s).hb = s.hb := rfl
@[simp] theorem rejectWord_latOp (s : State) (d : BitVec 4) :
    (rejectWord d s).latOp = .none := rfl
@[simp] theorem rejectWord_latW (s : State) (d : BitVec 4) :
    (rejectWord d s).latW = s.latW := rfl
@[simp] theorem rejectWord_latSize (s : State) (d : BitVec 4) :
    (rejectWord d s).latSize = s.latSize := rfl
@[simp] theorem rejectWord_ibuf (s : State) (d : BitVec 4) :
    (rejectWord d s).ibuf = s.ibuf := rfl
@[simp] theorem rejectWord_obuf (s : State) (d : BitVec 4) :
    (rejectWord d s).obuf = s.obuf := rfl
@[simp] theorem rejectWord_bus (s : State) (d : BitVec 4) :
    (rejectWord d s).bus = s.bus := rfl
@[simp] theorem rejectWord_reads (s : State) (d : BitVec 4) :
    (rejectWord d s).reads = s.reads := rfl
@[simp] theorem rejectWord_engineWait (s : State) (d : BitVec 4) :
    (rejectWord d s).engineWait = s.engineWait := rfl
@[simp] theorem rejectWord_draws (s : State) (d : BitVec 4) :
    (rejectWord d s).draws = s.draws := rfl

end Sys2Proof.Machine
end

