-- ==== Sys2Proof/Laws/Ops.lean ====
section
/-! SUPPORT. What each shared operation can do, one lemma per operation. -/

namespace Sys2Proof.Machine

/-- The BUSY test takes one of two ways (R166). -/
theorem State.unlessBusy_idle {s : State} (h : s.status.busy = false) (f : State → State) : s.unlessBusy f = f s := by
  simp [State.unlessBusy, h]

theorem State.unlessBusy_busy {s : State} (h : s.status.busy = true) (f : State → State) :
    s.unlessBusy f = s.setBusyViol := by
  simp [State.unlessBusy, h]

theorem cmdWrite_idle {s : State} (h : s.status.busy = false) (c : Word) : cmdWrite c s = perform (decodeCmd c) s := by
  simp [cmdWrite, h]

theorem cmdWrite_busy_srst {s : State} (h : s.status.busy = true) : cmdWrite 0x0000000F s = s.resetCore := by
  simp [cmdWrite, h]

theorem cmdWrite_busy_other {s : State} (h : s.status.busy = true) {c : Word} (hc : c ≠ 0x0000000F) :
    cmdWrite c s = s.setBusyViol := by
  simp only [cmdWrite, h, if_true, if_neg hc]

/-- The header bytes of the small form (R145). -/
theorem hdrBytes_small {s : Word} (h : s.toNat ≤ 65535) (w : Width) :
    hdrBytes s w = [0x00, sizeCode w, s.extractLsb' 8 8, s.extractLsb' 0 8] := by
  have : ¬ Config.largeThreshold < s.toNat := by simp only [Config.largeThreshold]; omega
  simp [hdrBytes, this]

/-- The header bytes of the large form (R144). -/
theorem hdrBytes_large {s : Word} (h : 65535 < s.toNat) (w : Width) :
    hdrBytes s w = [0x00, sizeCode w, 0x00, 0x00, s.extractLsb' 24 8, s.extractLsb' 16 8, s.extractLsb' 8 8,
      s.extractLsb' 0 8] := by
  have : Config.largeThreshold < s.toNat := by simp only [Config.largeThreshold]; omega
  simp [hdrBytes, this]

@[simp] theorem headerStore_four (a b c d : Byte) : headerStore [a, b, c, d] = #v[a, b, c, d, 0, 0, 0, 0] := rfl

@[simp] theorem headerStore_eight (a b c d e f g h : Byte) :
    headerStore [a, b, c, d, e, f, g, h] = #v[a, b, c, d, e, f, g, h] := rfl

@[simp] theorem headerStore_nil : headerStore [] = #v[0, 0, 0, 0, 0, 0, 0, 0] := rfl

@[simp] theorem hdrWord0_mk (a b c d e f g h : Byte) : hdrWord0 #v[a, b, c, d, e, f, g, h] = a ++ b ++ c ++ d := rfl

@[simp] theorem hdrWord1_mk (a b c d e f g h : Byte) : hdrWord1 #v[a, b, c, d, e, f, g, h] = e ++ f ++ g ++ h := rfl

/-- The value of an appended bit vector, its parts weighted by their places. -/
theorem toNat_append_add {m n : Nat} (x : BitVec m) (y : BitVec n) :
    (x ++ y).toNat = x.toNat * 2 ^ n + y.toNat := by
  rw [BitVec.toNat_append, Nat.shiftLeft_eq, Nat.mul_comm, ← Nat.two_pow_add_eq_or_of_lt y.isLt]

@[simp] theorem rawInput_length (s : State) : (rawInput s).length = s.inLen := by simp [rawInput]

/-- When the length check fails (R103). -/
theorem lengthOk_eq_false {w : Width} {n : Nat} :
    lengthOk w n = false ↔ w = .word ∧ n % 2 ≠ 0 ∨ w = .longword ∧ n % 4 ≠ 0 := by
  cases w <;> simp [lengthOk]

/-- The length check comes before the body function (R104). -/
theorem bodyOutcome_misaligned {w : Width} {raw : List Byte} (h : lengthOk w raw.length = false)
    (fn : Width → List CodeUnit → Option (List Byte)) (cap : Nat) :
    bodyOutcome fn cap w raw = .misaligned (expectedMultiple w) := by
  simp [bodyOutcome, h]

theorem bodyOutcome_fail {w : Width} {raw : List Byte} {fn : Width → List CodeUnit → Option (List Byte)}
    (h : lengthOk w raw.length = true) (hf : fn w (units w raw) = none) (cap : Nat) :
    bodyOutcome fn cap w raw = .failed 0 := by
  simp [bodyOutcome, h, hf]

theorem bodyOutcome_overflow {w : Width} {raw b : List Byte} {fn : Width → List CodeUnit → Option (List Byte)} {cap : Nat}
    (h : lengthOk w raw.length = true) (hf : fn w (units w raw) = some b) (hc : cap < b.length) :
    bodyOutcome fn cap w raw = .failed 1 := by
  simp [bodyOutcome, h, hf, hc]

theorem bodyOutcome_body {w : Width} {raw b : List Byte} {fn : Width → List CodeUnit → Option (List Byte)} {cap : Nat}
    (h : lengthOk w raw.length = true) (hf : fn w (units w raw) = some b) (hc : b.length ≤ cap) :
    bodyOutcome fn cap w raw = .body b := by
  simp [bodyOutcome, h, hf, Nat.not_lt.mpr hc]

/-- What a successful outcome says of the body function and the capacity. -/
theorem bodyOutcome_eq_body {w : Width} {raw b : List Byte} {fn : Width → List CodeUnit → Option (List Byte)} {cap : Nat}
    (h : bodyOutcome fn cap w raw = .body b) :
    lengthOk w raw.length = true ∧ fn w (units w raw) = some b ∧ b.length ≤ cap := by
  unfold bodyOutcome at h
  split at h
  · split at h
    · cases h
    · split at h
      · cases h
      · cases h
        exact ⟨‹_›, ‹_›, by omega⟩
  · cases h

theorem bodyFinish_misaligned (d : BitVec 4) (s : State) :
    bodyFinish (.misaligned d) s = { s with
      latOp := .none, outLen := 0, outPtr := 0
      status := { Safety.completed s.status .misaligned d with outValid := false } } := rfl

theorem bodyFinish_failed (d : BitVec 4) (s : State) :
    bodyFinish (.failed d) s = { s with
      latOp := .none, outLen := 0, outPtr := 0
      status := { Safety.completed s.status .encFailed d with outValid := false } } := rfl

theorem bodyFinish_body (b : List Byte) (s : State) :
    bodyFinish (.body b) s = { s with
      latOp := .none, outLen := b.length, outPtr := 0, obuf := Memory.writeList s.obuf 0 b
      status := { Safety.completed s.status .success 0 with outValid := true } } := rfl

/-- The body bytes after a successful completion are the body (R124). -/
theorem bodyBytes_bodyFinish {s : State} (h : Memory.wf s.obuf) (b : List Byte) :
    Safety.bodyBytes (bodyFinish (.body b) s) = b := Memory.readList_writeList h 0 b

theorem engineStep_hdr {s : State} (h : s.latOp = .hdr) : engineStep s = hdrComplete s := by simp [engineStep, h]

theorem engineStep_body {s : State} (h : s.latOp = .body) :
    engineStep s = bodyFinish (bodyOutcome Config.bodyFn Config.obufCap s.latW (rawInput s)) s := by
  simp [engineStep, h, bodyComplete, bodyCompleteWith]

/-- The engine's step leaves no command latched (R224). -/
theorem engineStep_latOp (s : State) : (engineStep s).latOp = .none := by
  cases h : s.latOp with
  | none => simp [engineStep, h]
  | hdr => rw [engineStep_hdr h]; rfl
  | body =>
    rw [engineStep_body h]
    generalize bodyOutcome Config.bodyFn Config.obufCap s.latW (rawInput s) = o
    cases o <;> rfl

/-- The engine's step clears BUSY (R224). -/
theorem engineStep_busy {s : State} (h : s.latOp ≠ .none) : (engineStep s).status.busy = false := by
  cases hl : s.latOp with
  | none => exact absurd hl h
  | hdr => rw [engineStep_hdr hl]; rfl
  | body =>
    rw [engineStep_body hl]
    generalize bodyOutcome Config.bodyFn Config.obufCap s.latW (rawInput s) = o
    cases o <;> rfl

/-- What the engine's step leaves alone, whatever command it completes (R126, R148, R226). -/
theorem engineStep_frame (s : State) :
    (engineStep s).bus = s.bus ∧ (engineStep s).reads = s.reads ∧ (engineStep s).engineWait = s.engineWait ∧
    (engineStep s).draws = s.draws ∧ (engineStep s).size = s.size ∧ (engineStep s).inLen = s.inLen ∧
    (engineStep s).ibuf = s.ibuf ∧ (engineStep s).latW = s.latW ∧ (engineStep s).latSize = s.latSize ∧
    (engineStep s).status.inOvf = s.status.inOvf ∧ (engineStep s).status.outUnf = s.status.outUnf ∧
    (engineStep s).status.busyViol = s.status.busyViol := by
  cases h : s.latOp with
  | none => simp [engineStep, h]
  | hdr => rw [engineStep_hdr h]; simp [hdrComplete, State.complete, Status.complete]
  | body =>
    rw [engineStep_body h]
    generalize bodyOutcome Config.bodyFn Config.obufCap s.latW (rawInput s) = o
    cases o <;> simp [bodyFinish, State.complete, Status.complete, State.outClear]

/-- No command writes a byte of IBUF or OBUF when it is issued (R37, R38). -/
theorem perform_buffers (c : Command) (s : State) : (perform c s).ibuf = s.ibuf ∧ (perform c s).obuf = s.obuf := by
  cases c <;> exact ⟨rfl, rfl⟩

/-- An OUT_DATA read pops a byte (R191). -/
theorem readOutData_pop {s : State} (h : s.status.outValid = true) (hp : s.outPtr < s.outLen) :
    readOutData s = { s with
      outPtr := s.outPtr + 1, reads := byteWord (Memory.read s.obuf s.outPtr) :: s.reads } := by
  simp [readOutData, h, hp, State.returnRead]

/-- An OUT_DATA read that finds no byte underruns (R191). -/
theorem readOutData_underrun {s : State} (h : s.status.outValid = false ∨ s.outLen ≤ s.outPtr) :
    readOutData s = s.setOutUnf.returnRead 0 := by
  have : ¬ (s.status.outValid = true ∧ s.outPtr < s.outLen) := by
    rintro ⟨h1, h2⟩
    rcases h with h | h
    · simp [h] at h1
    · omega
  simp only [readOutData, this, if_false]

theorem pushByteWith_full {s : State} {cap : Nat} (h : s.inLen = cap) (b : Byte) :
    pushByteWith cap b s = s.setInOvf := by
  simp [pushByteWith, h]

theorem pushByteWith_room {s : State} {cap : Nat} (h : s.inLen ≠ cap) (b : Byte) :
    pushByteWith cap b s = { s with ibuf := Memory.write s.ibuf s.inLen b, inLen := s.inLen + 1 } := by
  simp [pushByteWith, h]

/-- The input after a push ends with the byte pushed (R187). -/
theorem rawInput_push {s : State} (h : Memory.wf s.ibuf) (b : Byte) :
    rawInput { s with ibuf := Memory.write s.ibuf s.inLen b, inLen := s.inLen + 1 } = rawInput s ++ [b] := by
  simp only [rawInput, Memory.readList_succ, Nat.zero_add, Memory.read_write_same h]
  congr 1
  exact Memory.readList_congr fun j _ hj => Memory.read_write_other h (by omega) b

end Sys2Proof.Machine
end

