-- ==== Sys2Proof/Laws/PerInstr.lean ====
section
/-! SUPPORT. The per-instruction family EncodedAdmitted: what every instruction encodes to is one of the two encoded objects,
a command word or an access that the interface admits (30_encoding.md R70, R77; 20_memory.md R53). -/

namespace Sys2Proof.Laws

/-- The access that an instruction encodes to is 4 bytes wide, at an offset that is a multiple of 4, inside the 64-byte
window; a command row encodes to a command word. -/
def EncodedAdmitted.Statement (i : Instr) : Prop :=
  match encode i with
  | .command _ => True
  | .access (.read off width) => width = 4 ∧ off % 4 = 0 ∧ off < 64
  | .access (.write off width _) => width = 4 ∧ off % 4 = 0 ∧ off < 64

theorem EncodedAdmitted.hdrB : EncodedAdmitted.Statement .hdrB := trivial

theorem EncodedAdmitted.hdrW : EncodedAdmitted.Statement .hdrW := trivial

theorem EncodedAdmitted.hdrL : EncodedAdmitted.Statement .hdrL := trivial

theorem EncodedAdmitted.bodyB : EncodedAdmitted.Statement .bodyB := trivial

theorem EncodedAdmitted.bodyW : EncodedAdmitted.Statement .bodyW := trivial

theorem EncodedAdmitted.bodyL : EncodedAdmitted.Statement .bodyL := trivial

theorem EncodedAdmitted.clrIn : EncodedAdmitted.Statement .clrIn := trivial

theorem EncodedAdmitted.clrOut : EncodedAdmitted.Statement .clrOut := trivial

theorem EncodedAdmitted.rewind : EncodedAdmitted.Statement .rewind := trivial

theorem EncodedAdmitted.srst : EncodedAdmitted.Statement .srst := trivial

theorem EncodedAdmitted.illegal (word : Word) : EncodedAdmitted.Statement (.illegal word) := trivial

theorem EncodedAdmitted.rdCmd : EncodedAdmitted.Statement .rdCmd := ⟨rfl, rfl, by decide⟩

theorem EncodedAdmitted.wrCmd (data : Word) : EncodedAdmitted.Statement (.wrCmd data) := ⟨rfl, rfl, by decide⟩

theorem EncodedAdmitted.rdStatus : EncodedAdmitted.Statement .rdStatus := ⟨rfl, rfl, by decide⟩

theorem EncodedAdmitted.wrStatus (data : Word) : EncodedAdmitted.Statement (.wrStatus data) := ⟨rfl, rfl, by decide⟩

theorem EncodedAdmitted.rdSize : EncodedAdmitted.Statement .rdSize := ⟨rfl, rfl, by decide⟩

theorem EncodedAdmitted.wrSize (data : Word) : EncodedAdmitted.Statement (.wrSize data) := ⟨rfl, rfl, by decide⟩

theorem EncodedAdmitted.rdInData : EncodedAdmitted.Statement .rdInData := ⟨rfl, rfl, by decide⟩

theorem EncodedAdmitted.wrInData (data : Word) : EncodedAdmitted.Statement (.wrInData data) := ⟨rfl, rfl, by decide⟩

theorem EncodedAdmitted.rdInLen : EncodedAdmitted.Statement .rdInLen := ⟨rfl, rfl, by decide⟩

theorem EncodedAdmitted.wrInLen (data : Word) : EncodedAdmitted.Statement (.wrInLen data) := ⟨rfl, rfl, by decide⟩

theorem EncodedAdmitted.rdOutData : EncodedAdmitted.Statement .rdOutData := ⟨rfl, rfl, by decide⟩

theorem EncodedAdmitted.wrOutData (data : Word) : EncodedAdmitted.Statement (.wrOutData data) := ⟨rfl, rfl, by decide⟩

theorem EncodedAdmitted.rdOutLen : EncodedAdmitted.Statement .rdOutLen := ⟨rfl, rfl, by decide⟩

theorem EncodedAdmitted.wrOutLen (data : Word) : EncodedAdmitted.Statement (.wrOutLen data) := ⟨rfl, rfl, by decide⟩

theorem EncodedAdmitted.rdOutPtr : EncodedAdmitted.Statement .rdOutPtr := ⟨rfl, rfl, by decide⟩

theorem EncodedAdmitted.wrOutPtr (data : Word) : EncodedAdmitted.Statement (.wrOutPtr data) := ⟨rfl, rfl, by decide⟩

theorem EncodedAdmitted.rdHdrLen : EncodedAdmitted.Statement .rdHdrLen := ⟨rfl, rfl, by decide⟩

theorem EncodedAdmitted.wrHdrLen (data : Word) : EncodedAdmitted.Statement (.wrHdrLen data) := ⟨rfl, rfl, by decide⟩

theorem EncodedAdmitted.rdHdrW0 : EncodedAdmitted.Statement .rdHdrW0 := ⟨rfl, rfl, by decide⟩

theorem EncodedAdmitted.wrHdrW0 (data : Word) : EncodedAdmitted.Statement (.wrHdrW0 data) := ⟨rfl, rfl, by decide⟩

theorem EncodedAdmitted.rdHdrW1 : EncodedAdmitted.Statement .rdHdrW1 := ⟨rfl, rfl, by decide⟩

theorem EncodedAdmitted.wrHdrW1 (data : Word) : EncodedAdmitted.Statement (.wrHdrW1 data) := ⟨rfl, rfl, by decide⟩

theorem EncodedAdmitted.rdCapIn : EncodedAdmitted.Statement .rdCapIn := ⟨rfl, rfl, by decide⟩

theorem EncodedAdmitted.wrCapIn (data : Word) : EncodedAdmitted.Statement (.wrCapIn data) := ⟨rfl, rfl, by decide⟩

theorem EncodedAdmitted.rdCapOut : EncodedAdmitted.Statement .rdCapOut := ⟨rfl, rfl, by decide⟩

theorem EncodedAdmitted.wrCapOut (data : Word) : EncodedAdmitted.Statement (.wrCapOut data) := ⟨rfl, rfl, by decide⟩

theorem EncodedAdmitted.rdUnmapped34 : EncodedAdmitted.Statement .rdUnmapped34 := ⟨rfl, rfl, by decide⟩

theorem EncodedAdmitted.wrUnmapped34 (data : Word) : EncodedAdmitted.Statement (.wrUnmapped34 data) := ⟨rfl, rfl, by decide⟩

theorem EncodedAdmitted.rdUnmapped38 : EncodedAdmitted.Statement .rdUnmapped38 := ⟨rfl, rfl, by decide⟩

theorem EncodedAdmitted.wrUnmapped38 (data : Word) : EncodedAdmitted.Statement (.wrUnmapped38 data) := ⟨rfl, rfl, by decide⟩

theorem EncodedAdmitted.rdUnmapped3C : EncodedAdmitted.Statement .rdUnmapped3C := ⟨rfl, rfl, by decide⟩

theorem EncodedAdmitted.wrUnmapped3C (data : Word) : EncodedAdmitted.Statement (.wrUnmapped3C data) := ⟨rfl, rfl, by decide⟩

end Sys2Proof.Laws
end

