-- ==== Sys2Proof/Laws/Reference.lean ====
section
/-! SUPPORT. What the loops of the reference segmentation do (40_body_encoder.md R119). -/

namespace Sys2Proof.Machine

/-- What the counts and the remainder of a run cut up are (R119): they add up to the run, the remainder is short, every count
lies within the bounds, and every count but the last is MAX_RUN. -/
theorem chopFuel_spec (p : RefParams) (hp : p.Wf) : ∀ fuel n, n ≤ fuel →
    (chopFuel p fuel n).1.sum + (chopFuel p fuel n).2 = n ∧ (chopFuel p fuel n).2 < p.minRun ∧
    (∀ c ∈ (chopFuel p fuel n).1, p.minRun ≤ c ∧ ∀ m ∈ p.maxRun, c ≤ m) ∧
    (∀ l c r, (chopFuel p fuel n).1 = l ++ c :: r → r ≠ [] → p.maxRun = some c) := by
  obtain ⟨hmin, hmax, -⟩ := hp
  intro fuel
  induction fuel with
  | zero => intro n hn; simp [chopFuel]; omega
  | succ fuel ih =>
    intro n hn
    simp only [chopFuel]
    split
    · rename_i hle
      have hc1 : p.minRun ≤ atMost p.maxRun n := by
        unfold atMost
        cases hm : p.maxRun with
        | none => exact hle
        | some m => have := hmax m (by simp [hm]); simp only; omega
      have hc2 : atMost p.maxRun n ≤ n := by unfold atMost; split <;> omega
      obtain ⟨i1, i2, i3, i4⟩ := ih (n - atMost p.maxRun n) (by omega)
      refine ⟨by simp; omega, i2, ?_, ?_⟩
      · intro c hc
        rcases List.mem_cons.mp hc with rfl | hc
        · refine ⟨hc1, ?_⟩
          intro m hm
          simp at hm
          simp [atMost, hm]
        · exact i3 c hc
      · intro l c r he hr
        cases l with
        | nil =>
          simp at he
          obtain ⟨e1, e2⟩ := he
          subst e1
          cases hm : p.maxRun with
          | none =>
            exfalso
            have : n - atMost p.maxRun n = 0 := by simp [atMost, hm]
            rw [this] at e2
            have : (chopFuel p fuel 0).1 = [] := by
              cases fuel with
              | zero => rfl
              | succ f =>
                have : ¬ p.minRun ≤ 0 := by omega
                simp [chopFuel, this]
            exact hr (e2.symm.trans this)
          | some m =>
            simp only [atMost]
            by_cases hmn : m ≤ n
            · simp [hmn]
            · exfalso
              have : n - atMost p.maxRun n = 0 := by simp [atMost, hm]; omega
              rw [this] at e2
              have : (chopFuel p fuel 0).1 = [] := by
                cases fuel with
                | zero => rfl
                | succ f =>
                  have : ¬ p.minRun ≤ 0 := by omega
                  simp [chopFuel, this]
              exact hr (e2.symm.trans this)
        | cons a l =>
          simp at he
          exact i4 l c r he.2 hr
    · simp; omega

/-- What FLUSH gives (R119): literal segments that make up the span in order, each of at most MAX_LIT units, and every one but
the last of exactly MAX_LIT. -/
theorem flushFuel_spec (p : RefParams) (hp : p.Wf) : ∀ fuel lit, lit.length ≤ fuel →
    ((flushFuel p fuel lit).map Segment.expand).flatten = lit ∧
    (∀ s ∈ flushFuel p fuel lit, ∃ us, s = .lit us ∧ us <:+: lit ∧ 1 ≤ us.length ∧ ∀ m ∈ p.maxLit, us.length ≤ m) ∧
    (∀ l a r, flushFuel p fuel lit = l ++ .lit a :: r → r ≠ [] → p.maxLit = some a.length) := by
  obtain ⟨-, -, hlit⟩ := hp
  intro fuel
  induction fuel with
  | zero => intro lit h; simp at h; subst h; simp [flushFuel]
  | succ fuel ih =>
    intro lit h
    cases lit with
    | nil => simp [flushFuel]
    | cons x xs =>
      simp only [flushFuel]
      set m := atMost p.maxLit (x :: xs).length with hm
      have hm1 : 1 ≤ m := by
        rw [hm]; unfold atMost
        split
        · simp
        · rename_i k hk
          have := hlit k (by simp [hk]); simp; omega
      have hm2 : m ≤ (x :: xs).length := by rw [hm]; unfold atMost; split <;> omega
      obtain ⟨i1, i2, i3⟩ := ih ((x :: xs).drop m) (by simp at h ⊢; omega)
      refine ⟨?_, ?_, ?_⟩
      · simp [Segment.expand, i1]
      · intro s hs
        rcases List.mem_cons.mp hs with rfl | hs
        · refine ⟨_, rfl, (List.take_prefix m (x::xs)).isInfix, ?_, ?_⟩
          · rw [List.length_take]; omega
          · intro k hk
            simp at hk
            rw [List.length_take]
            have : m ≤ k := by rw [hm]; simp [atMost, hk]
            omega
        · obtain ⟨us, e, h1, h2⟩ := i2 s hs
          exact ⟨us, e, h1.trans (List.drop_suffix m (x::xs)).isInfix, h2⟩
      · intro l a r he hr
        cases l with
        | nil =>
          simp only [List.nil_append, List.cons.injEq, Segment.lit.injEq] at he
          obtain ⟨e1, e2⟩ := he
          have hne : (x :: xs).drop m ≠ [] := by
            intro h0
            rw [h0] at e2
            apply hr; rw [← e2]
            cases fuel <;> rfl
          have hlt : m < (x :: xs).length := by
            by_contra hge
            exact hne (List.drop_eq_nil_of_le (by omega))
          rw [← e1, List.length_take]
          cases hk : p.maxLit with
          | none => rw [hm] at hlt; simp [atMost, hk] at hlt
          | some k =>
            rw [hm] at hlt ⊢
            simp only [atMost, hk] at hlt ⊢
            congr 1; omega
        | cons b l =>
          simp at he
          exact i3 l a r he.2 hr

/-- One round of SEG's loop (R119). -/
theorem segFrom_cons (p : RefParams) (lit : List CodeUnit) (v : CodeUnit) (n : Nat)
    (rest : List (CodeUnit × Nat)) :
    (chop p n).1 = [] ∧ segFrom p lit ((v, n) :: rest) = segFrom p (lit ++ List.replicate (chop p n).2 v) rest ∨
    (chop p n).1 ≠ [] ∧ segFrom p lit ((v, n) :: rest) =
      flush p lit ++ (chop p n).1.map (Segment.rep v) ++ segFrom p (List.replicate (chop p n).2 v) rest := by
  simp only [segFrom]
  split
  · rename_i r h; left; simp [h]
  · rename_i c cs r h; right; simp [h]

end Sys2Proof.Machine
end

