-- ==== Sys2Proof/Laws/Step.lean ====
section
/-! SUPPORT. What a step can do, by whose turn it is. -/

namespace Sys2Proof.Machine

theorem step_engine {s : State} (h : nextTurn s = .engine) : step s = .next (engineStep s) := by simp [step, h]

theorem step_idle {s : State} (h : nextTurn s = .idle) : step s = .next s := by simp [step, h]

theorem step_rst {s t : State} (h : nextTurn s = .rst t) : step s = .next t.resetCore := by simp [step, h]

theorem step_host {s t : State} {i : Instr} (h : nextTurn s = .host i t) : step s = exec i t := by simp [step, h]

theorem step_refused {s : State} {r : AccessError} (h : nextTurn s = .refused r) :
    step s = .refused (.accessRefused r) := by simp [step, h]

/-- Everything a step that answers a next state can be. -/
theorem step_cases {s t : State} (h : step s = .next t) :
    (nextTurn s = .engine ∧ t = engineStep s) ∨ (nextTurn s = .idle ∧ t = s) ∨
    (∃ u, nextTurn s = .rst u ∧ t = u.resetCore) ∨ (∃ i u, nextTurn s = .host i u ∧ exec i u = .next t) := by
  cases hn : nextTurn s with
  | engine => rw [step_engine hn] at h; cases h; exact .inl ⟨rfl, rfl⟩
  | idle => rw [step_idle hn] at h; cases h; exact .inr (.inl ⟨rfl, rfl⟩)
  | rst u => rw [step_rst hn] at h; cases h; exact .inr (.inr (.inl ⟨u, rfl, rfl⟩))
  | host i u => rw [step_host hn] at h; exact .inr (.inr (.inr ⟨i, u, rfl, h⟩))
  | refused r => rw [step_refused hn] at h; cases h

/-- The engine's turn: a latched command whose delay has run out, or with no host event pending. -/
theorem nextTurn_engine {s : State} (h : nextTurn s = .engine) :
    s.latOp ≠ .none ∧ (s.bus = [] ∨ s.engineWait = 0) := by
  unfold nextTurn at h
  split at h
  · split at h
    · cases h
    · exact ⟨‹_›, .inl ‹_›⟩
  · split at h
    · rename_i hr
      simp only [engineReady, Bool.and_eq_true, decide_eq_true_eq] at hr
      exact ⟨hr.1, .inr hr.2⟩
    · split at h
      · cases h
      · split at h <;> cases h

/-- The host's turn: its first event decodes to the instruction, and is taken off its sequence. -/
theorem nextTurn_host {s u : State} {i : Instr} (h : nextTurn s = .host i u) :
    ∃ e rest, s.bus = .issue e :: rest ∧ decode e = .ok i ∧ u = takeEvent rest s ∧ engineReady s = false := by
  unfold nextTurn at h
  split at h
  · split at h <;> cases h
  · rename_i e rest hb
    split at h
    · cases h
    · rename_i hr
      split at h
      · cases h
      · split at h
        · cases h
          exact ⟨_, _, hb, ‹_›, rfl, by simpa using hr⟩
        · cases h

/-- The reset input's turn. -/
theorem nextTurn_rst {s u : State} (h : nextTurn s = .rst u) :
    ∃ rest, s.bus = .rst :: rest ∧ u = takeEvent rest s ∧ engineReady s = false := by
  unfold nextTurn at h
  split at h
  · split at h <;> cases h
  · rename_i e rest hb
    split at h
    · cases h
    · rename_i hr
      split at h
      · cases h
        exact ⟨_, hb, rfl, by simpa using hr⟩
      · split at h <;> cases h

/-- The first step of a longer run. -/
theorem run_succ {s t : State} (h : step s = .next t) (k : Nat) :
    Host.Core.run Sys2Proof.core (k + 1) s = Host.Core.run Sys2Proof.core k t := by
  have : Sys2Proof.core.step s = .next t := h
  simp only [Host.Core.run, this]

/-- It is the host's turn when the engine is not ready and the first event is an access with a meaning. -/
theorem nextTurn_issue {s : State} {e : Encoded} {i : Instr} {rest : List HostEvent} (hb : s.bus = .issue e :: rest)
    (hr : engineReady s = false) (hd : decode e = .ok i) : nextTurn s = .host i (takeEvent rest s) := by
  simp [nextTurn, hb, hr, hd]

/-- The ILLEGAL row is decoded from illegal words alone (R78). -/
theorem decodeCmd_of_decode_illegal {e : Encoded} {c : Word} (h : decode e = .ok (.illegal c)) :
    ∃ d, decodeCmd c = .illegal d := by
  cases e with
  | access a =>
    cases a with
    | read off width =>
      simp only [decode, decodeAccess] at h
      cases ha : admitAccess off width with
      | error r => simp [ha, Except.map] at h
      | ok r => cases r <;> simp [ha, Except.map, Reg.readInstr] at h
    | write off width d =>
      simp only [decode, decodeAccess] at h
      cases ha : admitAccess off width with
      | error r => simp [ha, Except.map] at h
      | ok r => cases r <;> simp [ha, Except.map, Reg.writeInstr] at h
  | command w =>
    simp only [decode, Except.ok.injEq] at h
    unfold decodeCommand at h
    split at h <;> cases h
    exact ⟨_, ‹_›⟩

/-- Everything an instruction can do to a state. -/
inductive Effect (s : State) : Instr → State → Prop
  | read (i : Instr) (v : Word) : Effect s i (s.returnRead v)
  | keep (i : Instr) : Effect s i s
  | sticky (data : Word) : Effect s (.wrStatus data) (s.clearSticky data)
  | violation (i : Instr) : s.status.busy = true → Effect s i s.setBusyViol
  | size (data : Word) : s.status.busy = false → Effect s (.wrSize data) { s with size := data }
  | overflow (data : Word) : s.status.busy = false → s.inLen = Config.ibufCap → Effect s (.wrInData data) s.setInOvf
  | push (data : Word) : s.status.busy = false → s.inLen ≠ Config.ibufCap →
      Effect s (.wrInData data)
        { s with ibuf := Memory.write s.ibuf s.inLen (byteOperand data), inLen := s.inLen + 1 }
  | pop : s.status.outValid = true → s.outPtr < s.outLen →
      Effect s .rdOutData
        { s with outPtr := s.outPtr + 1, reads := byteWord (Memory.read s.obuf s.outPtr) :: s.reads }
  | underrun : Effect s .rdOutData (s.setOutUnf.returnRead 0)
  | reset (i : Instr) : commandOf i = some .srst → Effect s i s.resetCore
  | command (i : Instr) (c : Command) : s.status.busy = false → commandOf i = some c → Effect s i (perform c s)

theorem unlessBusy_effect {s : State} {i : Instr} {c : Command} (h : commandOf i = some c) :
    Effect s i (s.unlessBusy (perform c)) := by
  cases hb : s.status.busy
  · rw [State.unlessBusy_idle hb]
    exact .command i c hb h
  · rw [State.unlessBusy_busy hb]
    exact .violation i hb

theorem cmdWrite_effect {s : State} {i : Instr} {w : Word} (h : commandOf i = some (decodeCmd w)) :
    Effect s i (cmdWrite w s) := by
  cases hb : s.status.busy
  · rw [cmdWrite_idle hb]
    exact .command i _ hb h
  · by_cases hw : w = 0x0000000F
    · subst hw
      rw [cmdWrite_busy_srst hb]
      exact .reset i (h.trans (congrArg some decodeCmd_srst))
    · rw [cmdWrite_busy_other hb hw]
      exact .violation i hb

theorem readOutData_effect (s : State) : Effect s .rdOutData (readOutData s) := by
  by_cases h : s.status.outValid = true ∧ s.outPtr < s.outLen
  · rw [readOutData_pop h.1 h.2]
    exact .pop h.1 h.2
  · rw [readOutData_underrun]
    · exact .underrun
    · by_cases hv : s.status.outValid = true
      · exact .inr (Nat.le_of_not_lt fun hp => h ⟨hv, hp⟩)
      · exact .inl (by simpa using hv)

theorem writeSize_effect (s : State) (data : Word) : Effect s (.wrSize data) (writeSize data s) := by
  cases hb : s.status.busy
  · rw [writeSize, State.unlessBusy_idle hb]
    exact .size data hb
  · rw [writeSize, State.unlessBusy_busy hb]
    exact .violation _ hb

theorem writeInData_effect (s : State) (data : Word) : Effect s (.wrInData data) (writeInData data s) := by
  cases hb : s.status.busy
  · rw [writeInData, State.unlessBusy_idle hb]
    by_cases hc : s.inLen = Config.ibufCap
    · rw [pushByteWith_full hc]
      exact .overflow data hb hc
    · rw [pushByteWith_room hc]
      exact .push data hb hc
  · rw [writeInData, State.unlessBusy_busy hb]
    exact .violation _ hb

/-- The inversion lemma of `exec`: whatever next state an instruction answers is one of its effects. -/
theorem exec_effect {i : Instr} {s t : State} (h : exec i s = .next t) : Effect s i t := by
  cases i <;> cases h
  case hdrB => exact unlessBusy_effect (c := .hdr .byte) rfl
  case hdrW => exact unlessBusy_effect (c := .hdr .word) rfl
  case hdrL => exact unlessBusy_effect (c := .hdr .longword) rfl
  case bodyB => exact unlessBusy_effect (c := .body .byte) rfl
  case bodyW => exact unlessBusy_effect (c := .body .word) rfl
  case bodyL => exact unlessBusy_effect (c := .body .longword) rfl
  case clrIn => exact unlessBusy_effect (c := .clrIn) rfl
  case clrOut => exact unlessBusy_effect (c := .clrOut) rfl
  case rewind => exact unlessBusy_effect (c := .rewind) rfl
  case srst => exact .reset _ rfl
  case illegal => exact cmdWrite_effect rfl
  case wrCmd => exact cmdWrite_effect rfl
  case wrStatus => exact .sticky _
  case wrSize => exact writeSize_effect s _
  case wrInData => exact writeInData_effect s _
  case rdOutData => exact readOutData_effect s
  case rdCmd | rdStatus | rdSize | rdInData | rdInLen | rdOutLen | rdOutPtr | rdHdrLen | rdHdrW0 | rdHdrW1 | rdCapIn
    | rdCapOut | rdUnmapped34 | rdUnmapped38 | rdUnmapped3C => exact .read _ _
  all_goals exact .keep _

end Sys2Proof.Machine
end

