-- ==== Sys2Proof/Laws/Relation.lean ====
section
/-! SUPPORT. The machine's step follows the step relation of R44: what it does to the core is what the relation gives for one
event, and none of the model's own fields has a part in it. -/

namespace Sys2Proof.Machine

/-- An operation acts on the core alone: its effect on the core does not depend on the model's own fields, and it returns at
most one value to the host. -/
def OnCore (f : State → State) : Prop :=
  ∀ s, (f s).toCoreState = (f s.toCoreState.alone).toCoreState ∧
    (f s).reads = (f s.toCoreState.alone).reads ++ s.reads ∧ (f s.toCoreState.alone).reads.length ≤ 1

/-- An operation that returns no value. -/
theorem OnCore.silent {f : State → State} (h : ∀ s, (f s).toCoreState = (f s.toCoreState.alone).toCoreState)
    (hr : ∀ s, (f s).reads = s.reads) : OnCore f := fun s =>
  ⟨h s, by rw [hr, hr]; rfl, by rw [hr]; exact Nat.zero_le _⟩

theorem OnCore.setBusyViol : OnCore State.setBusyViol := .silent (fun _ => rfl) fun _ => rfl

theorem OnCore.resetCore : OnCore State.resetCore := .silent (fun _ => rfl) fun _ => rfl

/-- The BUSY test keeps to the core. -/
theorem OnCore.unlessBusy {f : State → State} (h : OnCore f) : OnCore fun s => s.unlessBusy f := by
  intro s
  have hb : s.toCoreState.alone.status.busy = s.status.busy := rfl
  cases hs : s.status.busy
  · simpa only [State.unlessBusy_idle hs, State.unlessBusy_idle (hb.trans hs)] using h s
  · simpa only [State.unlessBusy_busy hs, State.unlessBusy_busy (hb.trans hs)] using OnCore.setBusyViol s

theorem OnCore.perform (c : Command) : OnCore (perform c) := by
  cases c <;> exact .silent (fun _ => rfl) fun _ => rfl

theorem OnCore.cmdWrite (c : Word) : OnCore (cmdWrite c) := by
  intro s
  have hb : s.toCoreState.alone.status.busy = s.status.busy := rfl
  cases hs : s.status.busy
  · simpa only [cmdWrite_idle hs, cmdWrite_idle (hb.trans hs)] using OnCore.perform (decodeCmd c) s
  · by_cases hc : c = 0x0000000F
    · subst hc
      simpa only [cmdWrite_busy_srst hs, cmdWrite_busy_srst (hb.trans hs)] using OnCore.resetCore s
    · simpa only [cmdWrite_busy_other hs hc, cmdWrite_busy_other (hb.trans hs) hc] using OnCore.setBusyViol s

theorem OnCore.push (cap : Nat) (b : Byte) : OnCore (pushByteWith cap b) := by
  intro s
  by_cases h : s.inLen = cap
  · rw [pushByteWith_full h, pushByteWith_full (s := s.toCoreState.alone) h]
    exact ⟨rfl, rfl, Nat.zero_le _⟩
  · rw [pushByteWith_room h, pushByteWith_room (s := s.toCoreState.alone) h]
    exact ⟨rfl, rfl, Nat.zero_le _⟩

theorem OnCore.readOutData : OnCore readOutData := by
  intro s
  by_cases h : s.status.outValid = true ∧ s.outPtr < s.outLen
  · rw [readOutData_pop h.1 h.2, readOutData_pop (s := s.toCoreState.alone) h.1 h.2]
    exact ⟨rfl, rfl, Nat.le_refl _⟩
  · have h' : s.status.outValid = false ∨ s.outLen ≤ s.outPtr := by
      by_cases hv : s.status.outValid = true
      · exact .inr (Nat.le_of_not_lt fun hp => h ⟨hv, hp⟩)
      · exact .inl (by simpa using hv)
    rw [readOutData_underrun h', readOutData_underrun (s := s.toCoreState.alone) h']
    exact ⟨rfl, rfl, Nat.le_refl _⟩

/-- Every instruction keeps to the core. -/
theorem exec_onCore (i : Instr) : ∃ f, (∀ s, exec i s = .next (f s)) ∧ OnCore f := by
  cases i
  case hdrB => exact ⟨_, fun _ => rfl, .unlessBusy (OnCore.perform (.hdr .byte))⟩
  case hdrW => exact ⟨_, fun _ => rfl, .unlessBusy (OnCore.perform (.hdr .word))⟩
  case hdrL => exact ⟨_, fun _ => rfl, .unlessBusy (OnCore.perform (.hdr .longword))⟩
  case bodyB => exact ⟨_, fun _ => rfl, .unlessBusy (OnCore.perform (.body .byte))⟩
  case bodyW => exact ⟨_, fun _ => rfl, .unlessBusy (OnCore.perform (.body .word))⟩
  case bodyL => exact ⟨_, fun _ => rfl, .unlessBusy (OnCore.perform (.body .longword))⟩
  case clrIn => exact ⟨_, fun _ => rfl, .unlessBusy (OnCore.perform .clrIn)⟩
  case clrOut => exact ⟨_, fun _ => rfl, .unlessBusy (OnCore.perform .clrOut)⟩
  case rewind => exact ⟨_, fun _ => rfl, .unlessBusy (OnCore.perform .rewind)⟩
  case srst => exact ⟨_, fun _ => rfl, OnCore.resetCore⟩
  case illegal c => exact ⟨_, fun _ => rfl, OnCore.cmdWrite c⟩
  case wrCmd c => exact ⟨_, fun _ => rfl, OnCore.cmdWrite c⟩
  case wrSize data =>
    exact ⟨_, fun _ => rfl, .unlessBusy (f := fun t => { t with size := data }) (.silent (fun _ => rfl) fun _ => rfl)⟩
  case wrInData data => exact ⟨_, fun _ => rfl, .unlessBusy (OnCore.push Config.ibufCap (byteOperand data))⟩
  case rdOutData => exact ⟨_, fun _ => rfl, OnCore.readOutData⟩
  all_goals exact ⟨_, fun _ => rfl, fun _ => ⟨rfl, rfl, by simp [CoreState.alone, ignoreWrite]⟩⟩

/-- A host event does to the core what the relation gives, and returns the relation's value (R44). -/
theorem coreStep_hostStep {e : HostEvent} {s t : State} (h : hostStep e s = .next t) :
    ∃ v, coreStep (.host e) s.toCoreState = some (t.toCoreState, v) ∧ t.reads = v.toList ++ s.reads := by
  have lift : ∀ f : State → State, OnCore f →
      (f s).toCoreState = (f s.toCoreState.alone).toCoreState ∧
      (f s).reads = ((f s.toCoreState.alone).reads.head?).toList ++ s.reads := by
    intro f hf
    obtain ⟨h1, h2, h3⟩ := hf s
    refine ⟨h1, h2.trans ?_⟩
    match (f s.toCoreState.alone).reads, h3 with
    | [], _ => rfl
    | [_], _ => rfl
  cases e with
  | rst =>
    cases h
    exact ⟨none, rfl, rfl⟩
  | issue enc =>
    cases hd : decode enc with
    | error r => simp [hostStep, hd] at h
    | ok i =>
      obtain ⟨f, hx, hf⟩ := exec_onCore i
      simp only [hostStep, hd, hx, Host.Outcome.next.injEq] at h
      subst h
      obtain ⟨h1, h2⟩ := lift f hf
      exact ⟨_, by simp [coreStep, hostStep, hd, hx, h1], h2⟩

/-- The engine's step does to the core what the relation gives (R36, R44). -/
theorem coreStep_engineStep {s : State} (h : s.latOp ≠ .none) :
    coreStep .engine s.toCoreState = some ((engineStep s).toCoreState, none) := by
  have hc : (engineStep s.toCoreState.alone).toCoreState = (engineStep s).toCoreState := by
    cases hl : s.latOp with
    | none => exact absurd hl h
    | hdr =>
      rw [engineStep_hdr hl, engineStep_hdr (s := s.toCoreState.alone) hl]
      rfl
    | body =>
      rw [engineStep_body hl, engineStep_body (s := s.toCoreState.alone) hl]
      change (bodyFinish (bodyOutcome Config.bodyFn Config.obufCap s.latW (rawInput s)) _).toCoreState = _
      generalize bodyOutcome Config.bodyFn Config.obufCap s.latW (rawInput s) = o
      cases o <;> rfl
  simp only [coreStep, if_neg h, hc]

/-- Every step of the machine is idle or one event of the relation: the engine's, or the first host event pending (R44,
R59). -/
theorem step_follows_coreStep {s t : State} (h : step s = .next t) :
    t = s ∨ ∃ e v, coreStep e s.toCoreState = some (t.toCoreState, v) ∧ t.reads = v.toList ++ s.reads ∧
      s.bus = hostEvents [e] ++ t.bus := by
  have bus : ∀ {e rest}, s.bus = e :: rest → hostStep e (takeEvent rest s) = .next t → t.bus = rest →
      ∃ e v, coreStep e s.toCoreState = some (t.toCoreState, v) ∧ t.reads = v.toList ++ s.reads ∧
        s.bus = hostEvents [e] ++ t.bus := by
    intro e rest hb he ht
    obtain ⟨v, h1, h2⟩ := coreStep_hostStep he
    exact ⟨.host e, v, h1, h2, by rw [hb, ht]; rfl⟩
  rcases step_cases h with ⟨hn, rfl⟩ | ⟨-, rfl⟩ | ⟨u, hn, rfl⟩ | ⟨i, u, hn, hx⟩
  · exact .inr ⟨.engine, none, coreStep_engineStep (nextTurn_engine hn).1, (engineStep_frame s).2.1,
      (engineStep_frame s).1.symm⟩
  · exact .inl rfl
  · obtain ⟨rest, hb, rfl, -⟩ := nextTurn_rst hn
    exact .inr (bus hb rfl rfl)
  · obtain ⟨e, rest, hb, hd, rfl, -⟩ := nextTurn_host hn
    refine .inr (bus hb (by simpa [hostStep, hd] using hx) ?_)
    cases exec_effect hx
    case command c _ _ => cases c <;> rfl
    all_goals rfl

/-- Every run of the machine is a run of the relation over some list of events, whose host part is what the run took from
the host's sequence, and whose values are what it read (R44, R263). -/
theorem run_follows_coreRun {k : Nat} {s t : State} (h : Host.Core.run Sys2Proof.core k s = .next t) :
    ∃ es vs, coreRun es s.toCoreState = some (t.toCoreState, vs) ∧ t.reads = vs.reverse ++ s.reads ∧
      s.bus = hostEvents es ++ t.bus := by
  induction k generalizing s with
  | zero =>
    cases h
    exact ⟨[], [], rfl, rfl, rfl⟩
  | succ k ih =>
    cases hs : step s with
    | fault f => cases f
    | refused r =>
      have : Sys2Proof.core.step s = .refused r := hs
      simp only [Host.Core.run, this] at h
      cases h
    | next u =>
      rw [run_succ hs] at h
      obtain ⟨es, vs, h1, h2, h3⟩ := ih h
      rcases step_follows_coreStep hs with rfl | ⟨e, v, g1, g2, g3⟩
      · exact ⟨es, vs, h1, h2, h3⟩
      · refine ⟨e :: es, v.toList ++ vs, by simp [coreRun, g1, h1], ?_, ?_⟩
        · rw [h2, g2]
          cases v <;> simp
        · rw [g3, h3]
          cases e <;> simp [hostEvents]

end Sys2Proof.Machine
end

