-- ==== Sys2Proof/Tests/Slice0.lean ====
section
/-! SUPPORT. The model's own tests: expected values are the spec's (95_test_vectors.md, by the vector's name, and the examples
of the rules named), and witnesses that the hypotheses of each obligation can be met. -/

namespace Sys2Proof.Tests

open Sys2Proof.Machine

/-- What a test looks at in the next state of an outcome. -/
def look {α : Type} (f : State → α) : Host.Outcome State Fault Refusal → Option α
  | .next t => some (f t)
  | _ => none

def statusOf (o : Host.Outcome State Fault Refusal) : Option Word := look (fun t => t.status.toWord) o

/-- A state with an HDR command in flight. -/
def pendingHdr (size : Word) (w : Width) : State :=
  { State.reset with latOp := .hdr, latW := w, latSize := size, status := { Status.reset with busy := true } }

/-- A state with a BODY command in flight over the given input. -/
def pendingBody (w : Width) (raw : List Byte) : State :=
  { State.reset with
    latOp := .body, latW := w, status := { Status.reset with busy := true }
    ibuf := Memory.writeList [] 0 raw, inLen := raw.length }

/-- A state with a completed body. -/
def bodyDone (b : List Byte) (ptr : Nat) : State :=
  { State.reset with
    status := { Status.reset with done := true, ok := true, outValid := true }
    obuf := Memory.writeList [] 0 b, outLen := b.length, outPtr := ptr }

/-- The registers of PG-3's end state. -/
def pg3 : State :=
  { bodyDone [0x84, 0xAA, 0x01, 0xBB] 4 with
    size := 5, inLen := 5, hdrLen := 4, hb := #v[0, 0, 0, 5, 0, 0, 0, 0]
    status := { Status.reset with done := true, ok := true, hdrValid := true, outValid := true } }

/-! Well-formedness: the one check there is refuses each of the ten legal command words as an ILLEGAL word. -/

theorem test_wf_refuses_legal_words :
    (Instr.illegal 0x00000001).wf = false ∧ (Instr.illegal 0x00000011).wf = false ∧
    (Instr.illegal 0x00000031).wf = false ∧ (Instr.illegal 0x00000002).wf = false ∧
    (Instr.illegal 0x00000012).wf = false ∧ (Instr.illegal 0x00000032).wf = false ∧
    (Instr.illegal 0x00000003).wf = false ∧ (Instr.illegal 0x00000004).wf = false ∧
    (Instr.illegal 0x00000005).wf = false ∧ (Instr.illegal 0x0000000F).wf = false := by decide

theorem test_wf_admits_illegal_words :
    (Instr.illegal 0x00000000).wf = true ∧ (Instr.illegal 0x00000021).wf = true ∧
    (Instr.illegal 0x80000002).wf = true := by decide

/-! Decoding: words written out from R72 to R74 (RSVD, W, OP) and descriptors from R71 (DIR, OFF) with their data word. -/

theorem test_decode_hdr :
    decodeTableWord 32 0b00000000000000000000000000_00_0001 = some .hdrB ∧
    decodeTableWord 32 0b00000000000000000000000000_01_0001 = some .hdrW ∧
    decodeTableWord 32 0b00000000000000000000000000_11_0001 = some .hdrL := by decide

theorem test_decode_body :
    decodeTableWord 32 0b00000000000000000000000000_00_0010 = some .bodyB ∧
    decodeTableWord 32 0b00000000000000000000000000_01_0010 = some .bodyW ∧
    decodeTableWord 32 0b00000000000000000000000000_11_0010 = some .bodyL := by decide

theorem test_decode_control :
    decodeTableWord 32 0b00000000000000000000000000_00_0011 = some .clrIn ∧
    decodeTableWord 32 0b00000000000000000000000000_00_0100 = some .clrOut ∧
    decodeTableWord 32 0b00000000000000000000000000_00_0101 = some .rewind ∧
    decodeTableWord 32 0b00000000000000000000000000_00_1111 = some .srst := by decide

theorem test_decode_illegal :
    decodeTableWord 32 0b00000000000000000000000000_00_0000 = some (.illegal 0x00000000) ∧
    decodeTableWord 32 0b00000000000000000000000000_10_0001 = some (.illegal 0x00000021) ∧
    decodeTableWord 32 0b00000000000000000000000000_01_1111 = some (.illegal 0x0000001F) ∧
    decodeTableWord 32 0b00000000000000000000000001_00_0000 = some (.illegal 0x00000040) := by decide

theorem test_decode_reads :
    decodeTableWord 8 0b0_000000 = some .rdCmd ∧ decodeTableWord 8 0b0_000100 = some .rdStatus ∧
    decodeTableWord 8 0b0_001000 = some .rdSize ∧ decodeTableWord 8 0b0_001100 = some .rdInData ∧
    decodeTableWord 8 0b0_010000 = some .rdInLen ∧ decodeTableWord 8 0b0_010100 = some .rdOutData ∧
    decodeTableWord 8 0b0_011000 = some .rdOutLen ∧ decodeTableWord 8 0b0_011100 = some .rdOutPtr ∧
    decodeTableWord 8 0b0_100000 = some .rdHdrLen ∧ decodeTableWord 8 0b0_100100 = some .rdHdrW0 ∧
    decodeTableWord 8 0b0_101000 = some .rdHdrW1 ∧ decodeTableWord 8 0b0_101100 = some .rdCapIn ∧
    decodeTableWord 8 0b0_110000 = some .rdCapOut ∧ decodeTableWord 8 0b0_110100 = some .rdUnmapped34 ∧
    decodeTableWord 8 0b0_111000 = some .rdUnmapped38 ∧ decodeTableWord 8 0b0_111100 = some .rdUnmapped3C := by decide

theorem test_decode_writes :
    decodeTableWord 40 0x0000001240 = some (.wrCmd 0x00000012) ∧
    decodeTableWord 40 0x0200000044 = some (.wrStatus 0x02000000) ∧
    decodeTableWord 40 0x0001117048 = some (.wrSize 0x00011170) ∧
    decodeTableWord 40 0x000001FF4C = some (.wrInData 0x000001FF) ∧
    decodeTableWord 40 0x0000000550 = some (.wrInLen 5) ∧ decodeTableWord 40 0x0000000554 = some (.wrOutData 5) ∧
    decodeTableWord 40 0x0000000558 = some (.wrOutLen 5) ∧ decodeTableWord 40 0x000000055C = some (.wrOutPtr 5) ∧
    decodeTableWord 40 0x0000000560 = some (.wrHdrLen 5) ∧ decodeTableWord 40 0x0000000164 = some (.wrHdrW0 1) ∧
    decodeTableWord 40 0x0000000168 = some (.wrHdrW1 1) ∧ decodeTableWord 40 0x000000016C = some (.wrCapIn 1) ∧
    decodeTableWord 40 0x0000000170 = some (.wrCapOut 1) ∧
    decodeTableWord 40 0x0000000774 = some (.wrUnmapped34 7) ∧
    decodeTableWord 40 0x0000000778 = some (.wrUnmapped38 7) ∧
    decodeTableWord 40 0xFFFFFFFF7C = some (.wrUnmapped3C 0xFFFFFFFF) := by decide

/-- XV-16: a 1-byte write at offset 0 and a 4-byte read at offset 2 have no step. -/
theorem test_refused_accesses :
    decode (.access (.write 0x00 1 0x01)) = .error .wrongWidth ∧
    decode (.access (.read 0x02 4)) = .error .misalignedOffset ∧
    decode (.access (.read 0x40 4)) = .error .outsideWindow := ⟨rfl, rfl, rfl⟩

/-! HDR (41_header_encoder.md; HV-1). -/

/-- What a completed HDR leaves: HDR_LEN, HDR_W0, HDR_W1 and STATUS. -/
def headerRow (size : Word) (w : Width) : Nat × Word × Word × Word :=
  let t := engineStep (pendingHdr size w)
  (t.hdrLen, hdrWord0 t.hb, hdrWord1 t.hb, t.status.toWord)

theorem test_hdr_small_rows :
    headerRow 0 .byte = (4, 0x00000000, 0x00000000, 0x00010006) ∧
    headerRow 10 .byte = (4, 0x0000000A, 0x00000000, 0x00010006) ∧
    headerRow 256 .word = (4, 0x00040100, 0x00000000, 0x00010006) ∧
    headerRow 65535 .longword = (4, 0x000CFFFF, 0x00000000, 0x00010006) := by decide

theorem test_hdr_large_rows :
    headerRow 65536 .byte = (8, 0x00000000, 0x00010000, 0x00010006) ∧
    headerRow 70000 .word = (8, 0x00040000, 0x00011170, 0x00010006) ∧
    headerRow 0x12345678 .word = (8, 0x00040000, 0x12345678, 0x00010006) ∧
    headerRow 0x80000000 .word = (8, 0x00040000, 0x80000000, 0x00010006) ∧
    headerRow 0xFFFFFFFF .longword = (8, 0x000C0000, 0xFFFFFFFF, 0x00010006) := by decide

/-- SX-2, byte for byte. -/
theorem test_hdr_bytes_SX2 : hdrBytes 70000 .word = [0x00, 0x04, 0x00, 0x00, 0x00, 0x01, 0x11, 0x70] := by decide

theorem test_hdrB_accept :
    look (fun t => (t.status.toWord, t.latOp, t.latW, t.latSize)) (exec .hdrB { State.reset with size := 10 }) =
      some (0x00000001, .hdr, .byte, 10) := by decide

/-- PG-1, row 3. -/
theorem test_hdrW_accept :
    look (fun t => (t.status.toWord, t.latOp, t.latW, t.latSize)) (exec .hdrW { State.reset with size := 70000 }) =
      some (0x00000001, .hdr, .word, 70000) := by decide

/-- HV-4: the earlier header is hidden while BUSY; a body stays (R141). -/
theorem test_hdrL_hides_header :
    look (fun t => (t.status.toWord, t.latW, t.hdrLen, hdrWord0 t.hb, t.outLen)) (exec .hdrL pg3) =
      some (0x00020001, .longword, 0, 0, 4) := by decide

/-! BODY (40_body_encoder.md). -/

/-- PG-3, row 6: HDR_VALID is kept. -/
theorem test_bodyB_accept :
    look (fun t => (t.status.toWord, t.latOp, t.latW, t.inLen)) (exec .bodyB { pg3 with outLen := 0 }) =
      some (0x00010001, .body, .byte, 5) := by decide

/-- XV-28: at acceptance OUT_VALID = 0 and OUT_LEN = 0. -/
theorem test_bodyW_accept :
    look (fun t => (t.status.toWord, t.latW, t.outLen, t.outPtr)) (exec .bodyW (bodyDone [0x11, 0x22] 1)) =
      some (0x00000001, .word, 0, 0) := by decide

theorem test_bodyL_accept :
    look (fun t => (t.status.toWord, t.latOp, t.latW)) (exec .bodyL State.reset) =
      some (0x00000001, .body, .longword) := by decide

/-- SX-4, PG-2: three bytes under Word. -/
theorem test_body_misaligned_SX4 :
    let t := engineStep (pendingBody .word [0x01, 0x02, 0x03])
    t.status.toWord = 0x00000212 ∧ t.outLen = 0 ∧ t.inLen = 3 ∧ Memory.read t.ibuf 2 = 0x03 := by decide

/-- AV-1, rows 2 and 6 under Longword. -/
theorem test_body_misaligned_longword :
    (engineStep (pendingBody .longword [1, 2])).status.toWord = 0x00000412 ∧
    (engineStep (pendingBody .longword [1, 2, 3, 4, 5, 6])).status.toWord = 0x00000412 := by decide

/-- AV-1: which lengths 0 to 8 pass the check. -/
theorem test_length_check :
    (List.range 9).filter (lengthOk .byte) = [0, 1, 2, 3, 4, 5, 6, 7, 8] ∧
    (List.range 9).filter (lengthOk .word) = [0, 2, 4, 6, 8] ∧
    (List.range 9).filter (lengthOk .longword) = [0, 4, 8] := by decide

/-- AV-2: misalignment wins over a body function that always fails. -/
theorem test_misaligned_before_failure :
    (bodyCompleteWith (fun _ _ => none) 16 (pendingBody .word [1, 2, 3])).status.toWord = 0x00000212 ∧
    (bodyCompleteWith (fun _ _ => none) 16 (pendingBody .word [1, 2, 3, 4])).status.toWord = 0x00000022 := by decide

/-- XV-21, XV-22: instance T and the capacity boundary. -/
theorem test_body_capacity :
    (let t := bodyCompleteWith (bodyFnRef instanceT) 3 (pendingBody .byte [1, 2, 3])
     (t.status.toWord, t.outLen)) = (0x00000122, 0) ∧
    (let t := bodyCompleteWith (bodyFnRef instanceT) 4 (pendingBody .byte [1, 2, 3])
     (t.status.toWord, t.outLen, Safety.bodyBytes t)) = (0x00020006, 4, [0x03, 0x01, 0x02, 0x03]) := by decide

/-- SX-5: the empty input succeeds under this machine's own BODY_FN. -/
theorem test_body_empty_SX5 (w : Width) : (engineStep (pendingBody w [])).status.toWord = 0x00020006 := by
  have hn : units w [] = [] := by cases w <;> rfl
  have h : bodyOutcome Config.bodyFn Config.obufCap w [] = .body (Config.emptyBody w) :=
    bodyOutcome_body (by cases w <;> rfl) (by rw [hn]; exact Config.bodyFn_nil w) (Config.length_emptyBody_le_obufCap w)
  rw [engineStep_body (s := pendingBody w []) rfl]
  show (bodyFinish (bodyOutcome Config.bodyFn Config.obufCap w []) _).status.toWord = _
  rw [h]
  exact (by decide : Status.toWord { Status.reset with done := true, ok := true, outValid := true } = 0x00020006)

/-! Units, runs and segments (UV-1, RV-1, BV-1 to BV-15, BV-18). -/

theorem test_units_UV1 :
    units .byte [0xAA, 0xBB] = [[0xAA], [0xBB]] ∧
    units .word [0x12, 0x34, 0x56, 0x78] = [[0x12, 0x34], [0x56, 0x78]] ∧
    units .longword [0x12, 0x34, 0x56, 0x78, 0x9A, 0xBC, 0xDE, 0xF0] =
      [[0x12, 0x34, 0x56, 0x78], [0x9A, 0xBC, 0xDE, 0xF0]] := by decide

theorem test_runs_byte :
    runs (units .byte [0xAA, 0xAA, 0xAA, 0xAA, 0xBB]) = [([0xAA], 4), ([0xBB], 1)] ∧
    runs (units .byte [0xAA, 0xBB, 0xAA, 0xBB]) = [([0xAA], 1), ([0xBB], 1), ([0xAA], 1), ([0xBB], 1)] ∧
    runs (units .byte [1, 1, 2, 2, 2, 1]) = [([1], 2), ([2], 3), ([1], 1)] := by decide

theorem test_runs_wide :
    runs (units .word [0x12, 0x12, 0x12, 0x12]) = [([0x12, 0x12], 2)] ∧
    runs (units .longword [0x12, 0x12, 0x12, 0x12]) = [([0x12, 0x12, 0x12, 0x12], 1)] ∧
    runs (units .word [0x12, 0x34, 0x12, 0x34, 0x12, 0x35]) = [([0x12, 0x34], 2), ([0x12, 0x35], 1)] ∧
    runs (units .word [0, 1, 1, 0]) = [([0, 1], 1), ([1, 0], 1)] := by decide

/-- Instance P-B of 95_test_vectors.md, its framing set aside. -/
def instancePB : RefParams := { instanceT with minRun := 3, maxRun := some 4, maxLit := some 2 }

/-- Instance P-A of 95_test_vectors.md, its framing set aside. -/
def instancePA : RefParams := { instanceT with minRun := 2, maxRun := none, maxLit := none }

theorem test_seg_PB :
    seg instancePB (List.replicate 9 [0xAA]) = [.rep [0xAA] 4, .rep [0xAA] 4, .lit [[0xAA]]] ∧
    seg instancePB (List.replicate 5 [0xAA] ++ [[0xBB]]) = [.rep [0xAA] 4, .lit [[0xAA], [0xBB]]] ∧
    seg instancePB [[1], [2], [2], [3]] = [.lit [[1], [2]], .lit [[2], [3]]] ∧
    seg instancePB (List.replicate 2 [0xAA] ++ List.replicate 5 [0xBB]) =
      [.lit [[0xAA], [0xAA]], .rep [0xBB] 4, .lit [[0xBB]]] := by decide

theorem test_seg_PA :
    seg instancePA (List.replicate 9 [0xAA]) = [.rep [0xAA] 9] ∧
    seg instancePA [[1], [2], [2], [3]] = [.lit [[1]], .rep [2] 2, .lit [[3]]] ∧
    seg instancePA (List.replicate 2 [0xAA] ++ List.replicate 5 [0xBB]) = [.rep [0xAA] 2, .rep [0xBB] 5] := by decide

theorem test_body_T :
    bodyFnRef instanceT .byte (units .byte [0xAA, 0xAA, 0xAA, 0xAA, 0xBB]) = some [0x84, 0xAA, 0x01, 0xBB] ∧
    bodyFnRef instanceT .word (units .word [1, 2, 3, 4]) = some [0x02, 1, 2, 3, 4] ∧
    bodyFnRef instanceT .longword (units .longword [0, 0, 0, 1, 0, 0, 0, 1, 0, 0, 0, 1, 0, 0, 0, 2]) =
      some [0x83, 0, 0, 0, 1, 0x01, 0, 0, 0, 2] := by decide

/-- BV-18h: a run of 128 is split at MAX_RUN. -/
theorem test_body_T_split :
    bodyFnRef instanceT .byte (List.replicate 128 [0xAA]) = some [0xFF, 0xAA, 0x01, 0xAA] := by decide

/-! Control commands (42_control_commands.md). -/

/-- XV-18. -/
theorem test_clrIn :
    look (fun t => (t.inLen, t.status.toWord)) (exec .clrIn { State.reset with inLen := 3, ibuf := [(0, 1)] }) =
      some (0, 0x00000006) := by decide

/-- XV-24. -/
theorem test_clrOut :
    look (fun t => (t.outLen, t.outPtr, t.status.toWord)) (exec .clrOut (bodyDone [0x84, 0xAA, 0x01, 0xBB] 2)) =
      some (0, 0, 0x00000006) := by decide

/-- XV-25. -/
theorem test_rewind :
    look (fun t => (t.outPtr, t.outLen, t.status.toWord)) (exec .rewind (bodyDone [0x84, 0xAA, 0x01, 0xBB] 2)) =
      some (0, 4, 0x00020006) := by decide

/-- XV-26: no header is produced. -/
theorem test_srst_while_busy :
    look (fun t => (t.status.toWord, t.latOp)) (exec .srst (pendingHdr 10 .word)) = some (0, .none) := by decide

/-- The example of R163. -/
theorem test_srst_clears_registers :
    look (fun t => (t.size, t.inLen, t.outLen, t.hdrLen)) (exec .srst pg3) = some (0, 0, 0, 0) := by decide

/-- XV-2. -/
theorem test_illegal_zero : statusOf (exec (.illegal 0x00000000) State.reset) = some 0x00000132 := by decide

/-- XV-27: HDR_VALID is kept. -/
theorem test_illegal_keeps_header :
    statusOf (exec (.illegal 0x00000000) (engineStep (pendingHdr 10 .byte))) = some 0x00010132 := by decide

/-- XV-19: CLRIN while BUSY is only a violation. -/
theorem test_clrIn_while_busy :
    look (fun t => (t.status.toWord, t.latOp)) (exec .clrIn (pendingHdr 10 .byte)) = some (0x04000001, .hdr) := by decide

/-! Register accesses (43_register_access.md). -/

/-- XV-3 to XV-9. -/
theorem test_wrCmd_illegal :
    statusOf (exec (.wrCmd 0x00000021) State.reset) = some 0x00000232 ∧
    statusOf (exec (.wrCmd 0x00000013) State.reset) = some 0x00000232 ∧
    statusOf (exec (.wrCmd 0x00000040) State.reset) = some 0x00000332 ∧
    statusOf (exec (.wrCmd 0x00000006) State.reset) = some 0x00000132 ∧
    statusOf (exec (.wrCmd 0x0000001F) State.reset) = some 0x00000232 ∧
    statusOf (exec (.wrCmd 0x80000002) State.reset) = some 0x00000332 ∧
    statusOf (exec (.wrCmd 0x00000022) State.reset) = some 0x00000232 := by decide

/-- The example of R181. -/
theorem test_wrCmd_body_word :
    look (fun t => (t.status.toWord, t.latOp, t.latW)) (exec (.wrCmd 0x12) State.reset) =
      some (0x00000001, .body, .word) := by decide

/-- The values read in PG-3's end state (rows 7, 8 and the end state). -/
theorem test_reads :
    look State.reads (exec .rdCmd pg3) = some [0] ∧
    look State.reads (exec .rdStatus pg3) = some [0x00030006] ∧
    look State.reads (exec .rdSize pg3) = some [5] ∧
    look State.reads (exec .rdInData pg3) = some [0] ∧
    look State.reads (exec .rdInLen pg3) = some [5] ∧
    look State.reads (exec .rdOutLen pg3) = some [4] ∧
    look State.reads (exec .rdOutPtr pg3) = some [4] ∧
    look State.reads (exec .rdHdrLen pg3) = some [4] ∧
    look State.reads (exec .rdHdrW0 pg3) = some [5] ∧
    look State.reads (exec .rdHdrW1 pg3) = some [0] := by decide

/-- PG-1, rows 6 and 7: a large-form header. -/
theorem test_read_large_header :
    look State.reads (exec .rdHdrW0 (engineStep (pendingHdr 70000 .word))) = some [0x00040000] ∧
    look State.reads (exec .rdHdrW1 (engineStep (pendingHdr 70000 .word))) = some [0x00011170] := by decide

/-- XV-1: CAP_IN and CAP_OUT are the constants. -/
theorem test_capacities :
    look State.reads (exec .rdCapIn State.reset) = some [BitVec.ofNat 32 Config.ibufCap] ∧
    look State.reads (exec .rdCapOut State.reset) = some [BitVec.ofNat 32 Config.obufCap] := ⟨rfl, rfl⟩

/-- XV-12: the sticky flags are cleared, DONE, OK and the rest unchanged. -/
theorem test_wrStatus_all :
    statusOf (exec (.wrStatus 0xFFFFFFFF)
      { State.reset with status :=
          { Status.reset with done := true, ok := true, inOvf := true, outUnf := true, busyViol := true } }) =
      some 0x00000006 := by decide

/-- The example of R184: 0x02000000 clears OUT_UNF only, also while BUSY. -/
theorem test_wrStatus_one :
    statusOf (exec (.wrStatus 0x02000000)
      { State.reset with status :=
          { Status.reset with busy := true, inOvf := true, outUnf := true, busyViol := true } }) =
      some 0x05000001 := by decide

/-- XV-17. -/
theorem test_wrSize : look (fun t => t.size) (exec (.wrSize 0xFFFFFFFF) State.reset) = some 0xFFFFFFFF := by decide

/-- HV-3: a SIZE write before the engine's step. -/
theorem test_wrSize_while_busy :
    look (fun t => (t.size, t.status.toWord)) (exec (.wrSize 70000) { pendingHdr 10 .byte with size := 10 }) =
      some (10, 0x04000001) := by decide

/-- XV-14. -/
theorem test_wrInData :
    look (fun t => (t.inLen, t.ibuf)) (exec (.wrInData 0x000001FF) State.reset) = some (1, [(0, 0xFF)]) := by decide

/-- XV-10: with IBUF_CAP = 2 the third byte is dropped. -/
theorem test_push_overflow :
    (let t := pushByteWith 2 0x03 { State.reset with inLen := 2, ibuf := [(0, 1), (1, 2)] }
     (t.inLen, t.status.toWord, t.ibuf)) = (2, 0x01000000, [(0, 1), (1, 2)]) := by decide

/-- The example of R191: the second byte of two, then an underrun. -/
theorem test_rdOutData :
    look (fun t => (t.reads, t.outPtr, t.status.outUnf)) (exec .rdOutData (bodyDone [0x11, 0x22] 1)) =
      some ([0x22], 2, false) ∧
    look (fun t => (t.reads, t.outPtr, t.status.outUnf)) (exec .rdOutData (bodyDone [0x11, 0x22] 2)) =
      some ([0], 2, true) := by decide

/-- XV-13. -/
theorem test_rdOutData_reset :
    look (fun t => (t.reads, t.status.toWord)) (exec .rdOutData State.reset) = some ([0], 0x02000000) := by decide

/-- XV-15 and R190, R199, in a state with a command in flight. -/
theorem test_ignored_writes :
    exec (.wrInLen 5) (pendingHdr 10 .byte) = .next (pendingHdr 10 .byte) ∧
    exec (.wrOutData 5) (pendingHdr 10 .byte) = .next (pendingHdr 10 .byte) ∧
    exec (.wrOutLen 5) (pendingHdr 10 .byte) = .next (pendingHdr 10 .byte) ∧
    exec (.wrOutPtr 5) (pendingHdr 10 .byte) = .next (pendingHdr 10 .byte) ∧
    exec (.wrHdrLen 5) (pendingHdr 10 .byte) = .next (pendingHdr 10 .byte) ∧
    exec (.wrHdrW0 1) (pendingHdr 10 .byte) = .next (pendingHdr 10 .byte) ∧
    exec (.wrHdrW1 1) (pendingHdr 10 .byte) = .next (pendingHdr 10 .byte) ∧
    exec (.wrCapIn 1) (pendingHdr 10 .byte) = .next (pendingHdr 10 .byte) ∧
    exec (.wrCapOut 1) (pendingHdr 10 .byte) = .next (pendingHdr 10 .byte) ∧
    exec (.wrUnmapped34 7) (pendingHdr 10 .byte) = .next (pendingHdr 10 .byte) ∧
    exec (.wrUnmapped38 7) (pendingHdr 10 .byte) = .next (pendingHdr 10 .byte) ∧
    exec (.wrUnmapped3C 7) (pendingHdr 10 .byte) = .next (pendingHdr 10 .byte) :=
  ⟨rfl, rfl, rfl, rfl, rfl, rfl, rfl, rfl, rfl, rfl, rfl, rfl⟩

theorem test_unmapped_reads :
    look State.reads (exec .rdUnmapped34 pg3) = some [0] ∧ look State.reads (exec .rdUnmapped38 pg3) = some [0] ∧
    look State.reads (exec .rdUnmapped3C pg3) = some [0] := by decide

/-! The step (20_memory.md R59). -/

/-- The host's access runs, taken off its sequence. -/
theorem test_step_runs_access :
    look (fun t => (t.bus, t.size)) (step { State.reset with bus := [wr .size 9, rd .size] }) =
      some ([rd .size], 9) := by decide

/-- XV-16: a refused access has no step. -/
theorem test_step_refuses :
    look (fun t => t.size) (step { State.reset with bus := [.issue (.access (.write 0x00 1 0x0F))] }) = none := by decide

/-- The reset input (R250). -/
theorem test_step_rst : statusOf (step { pg3 with bus := [.rst] }) = some 0 := by decide

/-- A table word placed on the reset state is run by the very next step. -/
theorem test_withFetchWord :
    look (fun t => (t.latOp, t.latW)) (step (State.reset.withFetchWord 32 0x00000031)) = some (.hdr, .longword) := by
  decide

/-! The step relation, with the events as its argument (R44), and the end of a run (R263). -/

/-- R36: the engine has no step with LAT_OP = NONE. -/
theorem test_engine_event_needs_latch : coreStep .engine State.reset.toCoreState = none := by decide

/-- HV-3 under both of its orders: a SIZE write before the engine's step, and after it. -/
theorem test_orders_HV3 :
    let c := { State.reset with size := 10 }.toCoreState
    let show3 (r : Option (CoreState × List Word)) := r.map fun x => (x.1.size, hdrWord0 x.1.hb, x.1.status.toWord)
    show3 (coreRun [.host (cmd 0x00000001), .host (wr .size 70000), .engine] c) = some (10, 0x0000000A, 0x04010006) ∧
    show3 (coreRun [.host (cmd 0x00000001), .engine, .host (wr .size 70000)] c) = some (70000, 0x0000000A, 0x00010006) := by
  decide

/-- R263: an asynchronous last command needs a last STATUS read that returned BUSY = 0; an immediate one does not. -/
theorem test_ended :
    Safety.ended [cmd 0x00000001, rd .status] State.reset.toCoreState [0x00010006] ∧
    ¬ Safety.ended [cmd 0x00000001, rd .status] State.reset.toCoreState [0x00000001] ∧
    ¬ Safety.ended [cmd 0x00000001] State.reset.toCoreState [] ∧
    ¬ Safety.ended [wr .cmd 0x00000002, rd .status, rd .size] State.reset.toCoreState [0x00010006, 0] ∧
    Safety.ended [cmd 0x00000001, rd .status, cmd 0x00000003] State.reset.toCoreState [0x00010006] ∧
    ¬ Safety.ended [] (pendingHdr 10 .byte).toCoreState [] := by decide

/-- A pending RST is no access that the host still has to make (R263). -/
theorem test_performed : Safety.performed { State.reset with bus := [.rst] } ∧
    ¬ Safety.performed { State.reset with bus := [.rst, rd .size] } := by
  simp [Safety.performed, rd]

theorem test_runEnds : ∃ t, Safety.runEnds { State.reset with bus := [rd .status] } t :=
  ⟨{ State.reset with reads := [0] }, rfl, 1, rfl, by simp [Safety.performed, State.reset], by decide⟩

/-! Witnesses: for each obligation with hypotheses, a concrete state and operands that meet them, at the boundaries of its
clauses. -/

/-- A state with a completed body read to one byte before its end, the boundary of the OUT_DATA clauses. -/
def lastByte : State := bodyDone [0x11, 0x22] 1

theorem witness_HdrAcceptLatchesAndHidesHeader :
    State.reset.status.busy = false ∧
    (Instr.hdrL, Width.longword) ∈ [(Instr.hdrB, Width.byte), (Instr.hdrW, Width.word), (Instr.hdrL, Width.longword)] := by
  decide

theorem witness_HdrCompletionStoresHeader :
    (pendingHdr 65535 .word).latOp = .hdr ∧ nextTurn (pendingHdr 65535 .word) = .engine ∧
    (pendingHdr 65535 .word).latSize.toNat ≤ 65535 ∧
    (pendingHdr 65536 .word).latOp = .hdr ∧ nextTurn (pendingHdr 65536 .word) = .engine ∧
    65535 < (pendingHdr 65536 .word).latSize.toNat := by decide

theorem witness_HeaderBytesLayout : (65535 : Word).toNat ≤ 65535 ∧ 65535 < (65536 : Word).toNat := by decide

theorem witness_HeaderDependsOnSizeAndWidthOnly :
    Instr.hdrW ∈ [Instr.hdrB, Instr.hdrW, Instr.hdrL] ∧
    ({ State.reset with size := 10 } : State).status.busy = false ∧ ({ pg3 with size := 10 } : State).status.busy = false ∧
    ∃ t t', exec .hdrW { State.reset with size := 10 } = .next t ∧ exec .hdrW { pg3 with size := 10 } = .next t' :=
  ⟨by decide, rfl, rfl, _, _, rfl, rfl⟩

theorem witness_BodyAcceptLatchesAndHidesBody :
    pg3.status.busy = false ∧
    (Instr.bodyW, Width.word) ∈ [(Instr.bodyB, Width.byte), (Instr.bodyW, Width.word), (Instr.bodyL, Width.longword)] := by
  decide

/-- The checks that do not turn on the open BODY_FN, at their least lengths, and the empty input, which it encodes. -/
theorem witness_BodyCompletionByCases :
    (∀ s ∈ [pendingBody .word [1], pendingBody .longword [1, 2], pendingBody .byte []],
      s.latOp = .body ∧ nextTurn s = .engine ∧ Memory.wf s.obuf) ∧
    (pendingBody .word [1]).inLen % 2 ≠ 0 ∧ (pendingBody .longword [1, 2]).inLen % 4 ≠ 0 ∧
    Config.bodyFn .byte (units .byte (rawInput (pendingBody .byte []))) = some (Config.emptyBody .byte) ∧
    ¬ Config.obufCap < (Config.emptyBody .byte).length :=
  ⟨by decide, by decide, by decide, Config.bodyFn_nil .byte, Nat.not_lt.mpr (Config.length_emptyBody_le_obufCap .byte)⟩

theorem witness_MisalignedBeforeAnyEncoding :
    ((pendingBody .word [1]).latW = .word ∧ (pendingBody .word [1]).inLen % 2 ≠ 0) ∧
    ((pendingBody .longword [1, 2]).latW = .longword ∧ (pendingBody .longword [1, 2]).inLen % 4 ≠ 0) ∧
    (pendingBody .byte [1]).latW = .byte ∧
    ((pendingBody .word [1, 2]).latW = .word ∧ (pendingBody .word [1, 2]).inLen % 2 = 0) ∧
    ((pendingBody .longword [1, 2, 3, 4]).latW = .longword ∧ (pendingBody .longword [1, 2, 3, 4]).inLen % 4 = 0) := by
  decide

/-- XV-21 and XV-22. -/
theorem witness_CapacityBoundary :
    lengthOk (pendingBody .byte [1, 2, 3]).latW (pendingBody .byte [1, 2, 3]).inLen = true ∧
    bodyFnRef instanceT .byte (units .byte (rawInput (pendingBody .byte [1, 2, 3]))) = some [3, 1, 2, 3] ∧
    3 < [3, 1, 2, (3 : Byte)].length ∧ [3, 1, 2, (3 : Byte)].length ≤ 4 := by decide

theorem bodyOutcome_empty (w : Width) :
    bodyOutcome Config.bodyFn Config.obufCap w [] = .body (Config.emptyBody w) := by
  have hn : units w [] = [] := by cases w <;> rfl
  exact bodyOutcome_body (by cases w <;> rfl) (by rw [hn]; exact Config.bodyFn_nil w)
    (Config.length_emptyBody_le_obufCap w)

theorem witness_SuccessfulBodyIsReadableAndSeparate :
    (pendingBody .word []).latOp = .body ∧ Memory.wf (pendingBody .word []).obuf ∧
    bodyOutcome Config.bodyFn Config.obufCap (pendingBody .word []).latW (rawInput (pendingBody .word [])) =
      .body (Config.emptyBody .word) ∧
    (∃ u, exec (.wrInData 0x1FF) (engineStep (pendingBody .word [])) = .next u) ∧
    ∃ u, exec .clrIn (engineStep (pendingBody .word [])) = .next u :=
  ⟨rfl, Memory.wf_nil, bodyOutcome_empty .word, ⟨_, rfl⟩, ⟨_, rfl⟩⟩

theorem witness_EmptyInputBodySucceeds :
    (pendingBody .longword []).latOp = .body ∧ (pendingBody .longword []).inLen = 0 := by decide

theorem witness_BodyIsDeterministic :
    let s := pendingBody .word [1, 2]
    let s' := { pendingBody .word [1, 2] with size := 7, inLen := 2 }
    s ≠ s' ∧ s.latOp = .body ∧ s'.latOp = .body ∧ Memory.wf s.obuf ∧ Memory.wf s'.obuf ∧ s.latW = s'.latW ∧
    rawInput s = rawInput s' := by decide

theorem witness_BodyLeavesInputAndHeader :
    Instr.bodyL ∈ [Instr.bodyB, Instr.bodyW, Instr.bodyL] ∧ pg3.status.busy = false ∧
    ∃ t, exec .bodyL pg3 = .next t := ⟨by decide, rfl, _, rfl⟩

theorem witness_UnitsPartitionTheInput :
    lengthOk .word [1, 2, 3, (4 : Byte)].length = true ∧ 1 < [1, 2, 3, (4 : Byte)].length / unitBytes .word := by decide

theorem witness_RunsAreTheUniqueMaximalRuns : runs [[1], [1], [2]] = [([1], 2), ([2], 1)] := by decide

theorem witness_SegmentsRestoreUnitsWithinBounds :
    instancePB.Wf ∧ Segment.rep [0xAA] 4 ∈ seg instancePB (List.replicate 5 [0xAA] ++ [[0xBB]]) ∧
    Segment.lit [[0xAA], [0xBB]] ∈ seg instancePB (List.replicate 5 [0xAA] ++ [[0xBB]]) := by decide

theorem witness_LiteralsHoldNoLongRun :
    instancePB.Wf ∧ Segment.lit [[0xAA], [0xAA]] ∈ seg instancePB [[0xAA], [0xAA]] := by decide

/-- BV-9 and BV-12. -/
theorem witness_AdjacentSegmentsOnlyAfterFullOnes :
    instancePB.Wf ∧
    seg instancePB [[1], [2], [2], [3]] = [] ++ [.lit [[1], [2]], .lit [[2], [3]]] ++ [] ∧
    seg instancePB (List.replicate 8 [0xAA]) = [] ++ [.rep [0xAA] 4, .rep [0xAA] 4] ++ [] := by decide

/-- BV-9 under P-A: a long run between two stretches of short ones. -/
theorem witness_UnboundedSegmentsFollowTheRuns :
    instancePA.Wf ∧ instancePA.maxRun = none ∧ instancePA.maxLit = none ∧
    runs [[1], [2], [2], [3]] = [([1], 1)] ++ [([2], 2)] ++ [([3], 1)] ∧ instancePA.minRun ≤ 2 ∧
    runs [[1], [2], [2], [3]] = [([1], 1), ([2], 2)] ++ [([3], 1)] ++ [] ∧
    (∀ q ∈ [(([3] : CodeUnit), 1)], q.2 < instancePA.minRun) ∧
    (∀ q ∈ [(([1] : CodeUnit), 1), ([2], 2)].getLast?, instancePA.minRun ≤ q.2) ∧
    ∀ q ∈ ([] : List (CodeUnit × Nat)).head?, instancePA.minRun ≤ q.2 := by decide

theorem witness_ReferenceBodyMeetsEmptyLawIff :
    instanceT.Wf ∧ instanceT.encFail .byte [] = false ∧
    ({ instanceT with encFail := fun _ _ => true } : RefParams).Wf ∧
    ({ instanceT with encFail := fun _ _ => true } : RefParams).encFail .byte [] = true := by decide

/-- For ClrInEmptiesInput, ClrOutDiscardsBody and RewindRestartsReading. -/
theorem witness_ControlCommands :
    lastByte.status.busy = false ∧ lastByte.status.outValid = true ∧ 0 < lastByte.outLen := by decide

theorem witness_ResetSourcesGiveResetState :
    ∃ u, nextTurn { pendingHdr 10 .byte with bus := [.rst], engineWait := 1 } = .rst u := ⟨_, rfl⟩

theorem witness_IllegalWordChangesOnlyStatus :
    pg3.status.busy = false ∧ decodeCmd 0x00000006 = .illegal 1 ∧ decodeCmd 0x00000021 = .illegal 2 ∧
    decodeCmd 0x00000040 = .illegal 3 ∧ pg3.latOp = .none := by decide

theorem witness_BusyCommandIsOnlyAViolation :
    (pendingHdr 10 .byte).status.busy = true ∧ (0x00000003 : Word) ≠ 0x0000000F ∧
    Instr.clrIn ∈ [Instr.hdrB, .hdrW, .hdrL, .bodyB, .bodyW, .bodyL, .clrIn, .clrOut, .rewind] ∧
    (Instr.illegal 0x00000000).wf = true := by decide

theorem witness_TenLegalCommandWords : decodeCmd 0x00000010 = .illegal 1 ∧ decodeCmd 0x00000011 = .hdr .word := by decide

theorem witness_DecodeOfEncode :
    (Instr.illegal 0xFFFFFFFF).wf = true ∧ Instr.hdrB.wf = true ∧ (Instr.wrUnmapped3C 0xFFFFFFFF).wf = true := by decide

theorem witness_EncodeOfDecode :
    decode (.command 0x00000031) = .ok .hdrL ∧ decode (.access (.write 0x3C 4 7)) = .ok (.wrUnmapped3C 7) := ⟨rfl, rfl⟩

theorem witness_UnadmittedAccessesHaveNoStep :
    let s := { State.reset with bus := [.issue (.access (.read 0x40 4))] }
    s.bus = .issue (.access (.read 0x40 4)) :: [] ∧ engineReady s = false ∧
    decode (.access (.read 0x40 4)) = .error .outsideWindow := ⟨rfl, rfl, rfl⟩

theorem witness_SizeWriteSetsSizeUnlessBusy :
    State.reset.status.busy = false ∧ (pendingHdr 10 .byte).status.busy = true := by decide

/-- The three clauses: a command in flight, a full buffer, and the last free byte. -/
theorem witness_InDataWriteAppendsByte :
    (pendingHdr 10 .byte).status.busy = true ∧ Memory.wf (pendingHdr 10 .byte).ibuf ∧
    ({ State.reset with inLen := Config.ibufCap } : State).status.busy = false ∧
    ({ State.reset with inLen := Config.ibufCap } : State).inLen = Config.ibufCap ∧
    ({ State.reset with inLen := Config.ibufCap - 1 } : State).inLen ≠ Config.ibufCap :=
  ⟨rfl, Memory.wf_nil, rfl, rfl, Nat.ne_of_lt (Nat.sub_lt Config.one_le_ibufCap Nat.one_pos)⟩

theorem witness_OutDataReadPopsOrUnderruns :
    (lastByte.status.outValid = true ∧ lastByte.outPtr < lastByte.outLen) ∧
    (bodyDone [0x11, 0x22] 2).outLen ≤ (bodyDone [0x11, 0x22] 2).outPtr ∧ State.reset.status.outValid = false := by decide

/-- A command in flight whose engine step is one event away, and the host's STATUS read before it. -/
def busyBus : State := { pendingHdr 10 .byte with bus := [rd .status, wr .status 0x07000000], engineWait := 1 }

theorem witness_StepRunsTheDecodedInstruction :
    busyBus.bus = .issue (readOf .status) :: [wr .status 0x07000000] ∧ engineReady busyBus = false ∧
    decode (readOf .status) = .ok .rdStatus := ⟨rfl, rfl, rfl⟩

theorem witness_EngineStepsExactlyWhenLatched :
    nextTurn { busyBus with engineWait := 0 } = .engine ∧
    ((pendingHdr 10 .byte).bus = [] ∧ (pendingHdr 10 .byte).latOp ≠ .none) ∧
    pg3.bus = [] ∧ pg3.latOp = .none := by decide

theorem witness_HostEventsKeepTheirOrder : ∃ t, step busyBus = .next t := ⟨_, rfl⟩

/-- A state with a command in flight meets the invariants. -/
theorem pendingHdr_inv (size : Word) (w : Width) : Safety.Inv (pendingHdr size w) where
  inLen_le := Nat.zero_le _
  outPtr_le := Nat.le_refl 0
  outLen_le := Nat.zero_le _
  outInvalid _ := ⟨rfl, rfl⟩
  hdrInvalid := by simp [pendingHdr, State.reset, Status.reset]
  hbInvalid _ := rfl
  hbSmall h := nomatch h
  hdrLen_mem := .inl rfl
  busy_iff := by simp [pendingHdr]
  busyRecord _ := ⟨rfl, rfl, rfl, rfl⟩
  ok_iff := by simp [pendingHdr, Status.reset]
  bodyPending h := nomatch h
  hdrPending _ := rfl
  ibufWf := Memory.wf_nil
  obufWf := Memory.wf_nil
  ibufBelow := Memory.below_nil _
  obufBelow := Memory.below_nil _

/-- The invariants do not speak of the model's own fields. -/
theorem busyBus_inv : Safety.Inv busyBus :=
  have h := pendingHdr_inv 10 .byte
  { inLen_le := h.inLen_le, outPtr_le := h.outPtr_le, outLen_le := h.outLen_le, outInvalid := h.outInvalid
    hdrInvalid := h.hdrInvalid, hbInvalid := h.hbInvalid, hbSmall := h.hbSmall, hdrLen_mem := h.hdrLen_mem
    busy_iff := h.busy_iff, busyRecord := h.busyRecord, ok_iff := h.ok_iff, bodyPending := h.bodyPending
    hdrPending := h.hdrPending, ibufWf := h.ibufWf, obufWf := h.obufWf, ibufBelow := h.ibufBelow
    obufBelow := h.obufBelow }

theorem witness_StepKeepsTheInvariants :
    Safety.Inv (pendingHdr 70000 .word) ∧ step (pendingHdr 70000 .word) = .next (engineStep (pendingHdr 70000 .word)) :=
  ⟨pendingHdr_inv 70000 .word, rfl⟩

theorem witness_StepKeepsLegalRecords :
    Safety.RecordLegal (pendingHdr 70000 .word).status ∧ ∃ t, step (pendingHdr 70000 .word) = .next t :=
  ⟨rfl, _, rfl⟩

theorem witness_InstructionsLeaveBufferBytes :
    Memory.wf State.reset.ibuf ∧ (∃ t, exec (.wrInData 0x1FF) State.reset = .next t) ∧
    (∃ data, Instr.wrInData 0x1FF = .wrInData data) ∧ (1 : Nat) ≠ State.reset.inLen :=
  ⟨Memory.wf_nil, ⟨_, rfl⟩, ⟨_, rfl⟩, by decide⟩

theorem witness_ObufChangesOnlyOnSuccess : ∃ t, step (pendingBody .byte []) = .next t := ⟨_, rfl⟩

theorem witness_SizeChangesOnlyByWriteOrReset :
    ∃ t, step { State.reset with bus := [wr .size 9] } = .next t ∧ t.size ≠ 0 := ⟨_, rfl, by decide⟩

/-- Each of the three flags: set before a STATUS write and clear after it. -/
theorem witness_StickyFlagsAreClearedOnlyByHost :
    let s := { State.reset with
      bus := [wr .status 0x07000000], status := { Status.reset with inOvf := true, outUnf := true, busyViol := true } }
    ∃ t, step s = .next t ∧ (s.status.inOvf = true ∧ t.status.inOvf = false) ∧
      (s.status.outUnf = true ∧ t.status.outUnf = false) ∧ s.status.busyViol = true ∧ t.status.busyViol = false :=
  ⟨_, rfl, ⟨rfl, rfl⟩, ⟨rfl, rfl⟩, rfl, rfl⟩

/-- The latch leaves NONE by a command, and returns to it by the engine's step. -/
theorem witness_LatchChangesOnlyByAcceptCompleteReset :
    (Safety.Inv (pendingHdr 10 .byte) ∧ ∃ t, step (pendingHdr 10 .byte) = .next t ∧
      t.latOp ≠ (pendingHdr 10 .byte).latOp) ∧
    ∃ t, step (State.reset.withFetchWord 32 0x00000031) = .next t ∧ t.latOp ≠ .none :=
  ⟨⟨pendingHdr_inv 10 .byte, _, rfl, by decide⟩, _, rfl, by decide⟩

theorem witness_AcceptedCommandCompletes :
    Safety.Inv busyBus ∧ busyBus.latOp ≠ .none ∧ busyBus.bus.all Safety.admitted = true :=
  ⟨busyBus_inv, by decide, rfl⟩

theorem witness_StatusTrafficIsOrderIndependent :
    busyBus.latOp ≠ .none ∧ ∀ e ∈ busyBus.bus, e = rd .status ∨ ∃ data, e = wr .status data := by
  refine ⟨by decide, fun e he => ?_⟩
  rcases List.mem_cons.mp he with rfl | he
  · exact .inl rfl
  · rcases List.mem_cons.mp he with rfl | he
    · exact .inr ⟨_, rfl⟩
    · cases he

theorem witness_ReadoutReturnsTheBody :
    (bodyDone [0x11, 0x22] 0).latOp = .none ∧ (bodyDone [0x11, 0x22] 0).status.outValid = true ∧
    (bodyDone [0x11, 0x22] 0).outPtr = 0 := by decide

theorem witness_PushedBytesAreAppended :
    State.reset.latOp = .none ∧ State.reset.status.busy = false ∧ Memory.wf State.reset.ibuf ∧
    State.reset.inLen + ([0xAA] : List Byte).length ≤ Config.ibufCap :=
  ⟨rfl, rfl, Memory.wf_nil, Config.one_le_ibufCap⟩

/-- A body function and a decoder for the one-byte input AA alone. -/
def oneFn : Width → List CodeUnit → Option (List Byte) := fun w u => if w = .byte ∧ u = [[0xAA]] then some [0xAA] else none

def oneDec : List Byte → Option (List Byte) := fun c => if c = [0, 0, 0, 1, 0xAA] then some [0xAA] else none

theorem oneFn_roundTrip : Safety.RoundTripLaw oneFn oneDec := by
  intro w raw b _ _ hf
  unfold oneFn at hf
  split at hf
  · rename_i h
    obtain ⟨rfl, hu⟩ := h
    cases hf
    match raw, hu with
    | [], hu => cases hu
    | [a], hu =>
      simp [units, unitBytes] at hu
      subst hu
      decide
    | _ :: _ :: _, hu => simpa [units, unitBytes] using congrArg List.length hu
  · cases hf

/-- The input AA, its size set: the two commands are accepted, and the body succeeds. -/
theorem witness_SessionContainerDecodesToInput :
    let s := { State.reset with inLen := 1, ibuf := [(0, 0xAA)], size := 1 }
    Safety.RoundTripLaw oneFn oneDec ∧ Memory.wf s.obuf ∧ s.status.busy = false ∧ s.inLen ≤ Config.maxCapacity ∧
    s.size = countWord s.inLen ∧
    ∃ t u, exec (.wrCmd (hdrCommand .byte)) s = .next t ∧ exec (.wrCmd (bodyCommand .byte)) (engineStep t) = .next u ∧
      (bodyCompleteWith oneFn 16 u).status.result = .success :=
  ⟨oneFn_roundTrip, Memory.wf_nil, rfl, by decide, rfl, _, _, rfl, rfl, by decide⟩

theorem witness_RegisterTables :
    ((0x00, Instr.rdCmd, 0) : Nat × Instr × Word) ∈ [(0x00, .rdCmd, 0), (0x08, .rdSize, pg3.size)] ∧
    ((0x34, Instr.rdUnmapped34) : Nat × Instr) ∈ [(0x34, .rdUnmapped34), (0x38, .rdUnmapped38), (0x3C, .rdUnmapped3C)] ∧
    ((0x50, Instr.wrInLen 5) : Nat × Instr) ∈ [(0x50, .wrInLen 5), (0x54, .wrOutData 5)] := by decide

/-- At the ends of the window. -/
theorem witness_WindowSitsAtBase :
    (0 < 64 ∧ Config.base = Config.base + 0) ∧ (63 < 64 ∧ Config.base + 63 = Config.base + 63) ∧
    Config.base + 64 ≤ Config.base + 64 := by simp

end Sys2Proof.Tests
end

/-! The core's state (10_state.md): the invariants of R40, the completion record of R26 and R27, and the one writer of
each of SIZE, LAT_OP, IBUF and OBUF. Every lemma about a step goes by `step_cases`, `exec_effect` and, for the engine,
one lemma about its completion. -/

namespace Sys2Proof.Machine

/-! The invariants of R40, operation by operation: each lemma proves the lines that its operation can touch, and takes
the others from the state before. -/

/-- The invariants speak of the core's registers alone, not of the model's own fields. -/
theorem inv_of_core_eq {s t : State} (h : Safety.Inv s) (hc : t.toCoreState = s.toCoreState) : Safety.Inv t := by
  obtain ⟨c, bus, reads, wait, draws⟩ := s
  obtain ⟨d, bus', reads', wait', draws'⟩ := t
  obtain rfl : d = c := hc
  exact { h with }

theorem inv_takeEvent {s : State} (h : Safety.Inv s) (rest : List HostEvent) : Safety.Inv (takeEvent rest s) :=
  inv_of_core_eq h rfl

theorem inv_returnRead {s : State} (h : Safety.Inv s) (v : Word) : Safety.Inv (s.returnRead v) :=
  inv_of_core_eq h rfl

theorem inv_setBusyViol {s : State} (h : Safety.Inv s) : Safety.Inv s.setBusyViol := { h with }

theorem inv_setInOvf {s : State} (h : Safety.Inv s) : Safety.Inv s.setInOvf := { h with }

theorem inv_setOutUnf {s : State} (h : Safety.Inv s) : Safety.Inv s.setOutUnf := { h with }

theorem inv_clearSticky {s : State} (h : Safety.Inv s) (data : Word) : Safety.Inv (s.clearSticky data) := { h with }

theorem inv_setSize {s : State} (h : Safety.Inv s) (data : Word) : Safety.Inv { s with size := data } := { h with }

/-- A push below the capacity (R187). -/
theorem inv_push {s : State} (h : Safety.Inv s) (hroom : s.inLen ≠ Config.ibufCap) (b : Byte) :
    Safety.Inv { s with ibuf := Memory.write s.ibuf s.inLen b, inLen := s.inLen + 1 } :=
  have hlt : s.inLen < Config.ibufCap := Nat.lt_of_le_of_ne h.inLen_le hroom
  { h with
    inLen_le := hlt
    ibufWf := Memory.wf_write h.ibufWf _ b
    ibufBelow := Memory.below_write h.ibufBelow hlt b }

/-- A pop of a readable byte (R191). -/
theorem inv_pop {s : State} (h : Safety.Inv s) (hv : s.status.outValid = true) (hp : s.outPtr < s.outLen) (v : Word) :
    Safety.Inv { s with outPtr := s.outPtr + 1, reads := v :: s.reads } :=
  { h with
    outPtr_le := hp
    outInvalid := fun hf => absurd (hv.symm.trans hf) Bool.noConfusion }

/-- RESET asks of the state before only the buffers' forms, since it writes every register (R251). -/
theorem inv_resetCore {s : State} (hi : Memory.wf s.ibuf) (ho : Memory.wf s.obuf)
    (hib : Memory.below s.ibuf Config.ibufCap) (hob : Memory.below s.obuf Config.obufCap) :
    Safety.Inv s.resetCore where
  inLen_le := Nat.zero_le _
  outPtr_le := Nat.le_refl 0
  outLen_le := Nat.zero_le _
  outInvalid _ := ⟨rfl, rfl⟩
  hdrInvalid := iff_of_true rfl rfl
  hbInvalid _ := rfl
  hbSmall := nofun
  hdrLen_mem := .inl rfl
  busy_iff := iff_of_false nofun (not_not_intro rfl)
  busyRecord := nofun
  ok_iff := iff_of_false nofun nofun
  bodyPending := nofun
  hdrPending := nofun
  ibufWf := hi
  obufWf := ho
  ibufBelow := hib
  obufBelow := hob

/-- The completion primitive (R224): it leaves no command in flight, so R40's lines on an in-flight one ask nothing. -/
theorem inv_complete {s : State} (h : Safety.Inv s) (r : Result) (d : BitVec 4) : Safety.Inv (s.complete r d) :=
  { h with
    busy_iff := iff_of_false nofun (not_not_intro rfl)
    busyRecord := nofun
    ok_iff := by simp
    bodyPending := nofun
    hdrPending := nofun }

/-- The acceptance primitive (R225), of a command whose earlier result is already hidden. -/
theorem inv_accept {s : State} (h : Safety.Inv s) {op : LatOp} (hop : op ≠ .none)
    (hbody : op = .body → s.status.outValid = false) (hhdr : op = .hdr → s.status.hdrValid = false) (w : Width) :
    Safety.Inv (s.accept op w) :=
  { h with
    busy_iff := iff_of_true rfl hop
    busyRecord := fun _ => ⟨rfl, rfl, rfl, rfl⟩
    ok_iff := iff_of_false nofun nofun
    bodyPending := hbody
    hdrPending := hhdr }

/-- No body stays readable, as BODY acceptance, a failed BODY and CLROUT leave it (R102, R125). -/
theorem inv_outClear {s : State} (h : Safety.Inv s) : Safety.Inv s.outClear :=
  { h with
    outPtr_le := Nat.le_refl 0
    outLen_le := Nat.zero_le _
    outInvalid := fun _ => ⟨rfl, rfl⟩
    bodyPending := fun _ => rfl }

/-- No header stays readable, as HDR acceptance leaves it (R141). -/
theorem inv_hideHeader {s : State} (h : Safety.Inv s) :
    Safety.Inv { s with status := { s.status with hdrValid := false }, hdrLen := 0, hb := headerStore [] } :=
  { h with
    hdrInvalid := iff_of_true rfl rfl
    hbInvalid := fun _ => rfl
    hbSmall := nofun
    hdrLen_mem := .inl rfl
    hdrPending := fun _ => rfl }

theorem inv_hdrAccept {s : State} (h : Safety.Inv s) (w : Width) : Safety.Inv (hdrAccept w s) :=
  { inv_accept (inv_hideHeader h) (op := .hdr) nofun nofun (fun _ => rfl) w with }

theorem inv_bodyAccept {s : State} (h : Safety.Inv s) (w : Width) : Safety.Inv (bodyAccept w s) :=
  inv_accept (inv_outClear h) (op := .body) nofun (fun _ => rfl) nofun w

/-- Every command that a CMD write can carry, when it is performed (R181). -/
theorem inv_perform {s : State} (h : Safety.Inv s) (c : Command) : Safety.Inv (perform c s) := by
  cases c with
  | hdr w => exact inv_hdrAccept h w
  | body w => exact inv_bodyAccept h w
  | clrIn =>
    have h0 : Safety.Inv { s with inLen := 0 } := { h with inLen_le := Nat.zero_le _ }
    exact inv_complete h0 _ _
  | clrOut => exact inv_complete (inv_outClear h) _ _
  | rewind =>
    have h0 : Safety.Inv { s with outPtr := 0 } :=
      { h with outPtr_le := Nat.zero_le _, outInvalid := fun hv => ⟨(h.outInvalid hv).1, rfl⟩ }
    exact inv_complete h0 _ _
  | srst => exact inv_resetCore h.ibufWf h.obufWf h.ibufBelow h.obufBelow
  | illegal d => exact inv_complete h _ _

/-- A header has 4 or 8 bytes (R143). -/
theorem hdrBytes_length (size : Word) (w : Width) : (hdrBytes size w).length = 4 ∨ (hdrBytes size w).length = 8 := by
  rcases Nat.lt_or_ge 65535 size.toNat with hl | hl
  · exact .inr (by rw [hdrBytes_large hl]; rfl)
  · exact .inl (by rw [hdrBytes_small hl]; rfl)

/-- The store of a 4-byte header ends in four bytes 0x00 (R147). -/
theorem headerStore_tail {h : List Byte} (hl : h.length = 4) :
    (headerStore h)[4] = 0 ∧ (headerStore h)[5] = 0 ∧ (headerStore h)[6] = 0 ∧ (headerStore h)[7] = 0 := by
  have hzero : ∀ i, 4 ≤ i → h.getD i 0 = 0 := fun i hi => List.getD_eq_default _ _ (by omega)
  exact ⟨hzero 4 (by omega), hzero 5 (by omega), hzero 6 (by omega), hzero 7 (by omega)⟩

theorem inv_hdrComplete {s : State} (h : Safety.Inv s) : Safety.Inv (hdrComplete s) :=
  have hlen := hdrBytes_length s.latSize s.latW
  { inv_complete h .success 0 with
    hdrInvalid := iff_of_false nofun fun h0 : (hdrBytes s.latSize s.latW).length = 0 => by omega
    hbInvalid := nofun
    hbSmall := headerStore_tail
    hdrLen_mem := .inr hlen
    hdrPending := nofun }

/-- What BODY_COMPLETE writes keeps the invariants when a body it stores fits OBUF_CAP (R102, R123). -/
theorem inv_bodyFinish {s : State} (h : Safety.Inv s) {o : BodyOutcome}
    (hfit : ∀ b, o = .body b → b.length ≤ Config.obufCap) : Safety.Inv (bodyFinish o s) := by
  cases o with
  | misaligned d => exact inv_complete (inv_outClear h) _ _
  | failed d => exact inv_complete (inv_outClear h) _ _
  | body b =>
    have hb := hfit b rfl
    exact { inv_complete h .success 0 with
      outPtr_le := Nat.zero_le _
      outLen_le := hb
      outInvalid := nofun
      bodyPending := nofun
      obufWf := Memory.wf_writeList h.obufWf 0 b
      obufBelow := Memory.below_writeList h.obufBelow (by omega) }

theorem engineStep_none {s : State} (h : s.latOp = .none) : engineStep s = s := by simp [engineStep, h]

theorem inv_engineStep {s : State} (h : Safety.Inv s) : Safety.Inv (engineStep s) := by
  cases hl : s.latOp with
  | none => rw [engineStep_none hl]; exact h
  | hdr => rw [engineStep_hdr hl]; exact inv_hdrComplete h
  | body =>
    rw [engineStep_body hl]
    exact inv_bodyFinish h fun b hb => (bodyOutcome_eq_body hb).2.2

theorem inv_effect {i : Instr} {s t : State} (h : Safety.Inv s) (he : Effect s i t) : Safety.Inv t := by
  cases he with
  | read _ v => exact inv_returnRead h v
  | keep => exact h
  | sticky data => exact inv_clearSticky h data
  | violation => exact inv_setBusyViol h
  | size data => exact inv_setSize h data
  | overflow => exact inv_setInOvf h
  | push data _ hroom => exact inv_push h hroom _
  | pop hv hp => exact inv_pop h hv hp _
  | underrun => exact inv_returnRead (inv_setOutUnf h) _
  | reset => exact inv_resetCore h.ibufWf h.obufWf h.ibufBelow h.obufBelow
  | command _ c => exact inv_perform h c

/-- Settles O47, by whose turn the step is: the engine's completion, and every effect that a host event can have, keep
each line of R40. -/
theorem stepKeepsTheInvariants : Obligations.StepKeepsTheInvariants := by
  intro s t h hstep
  rcases step_cases hstep with ⟨-, rfl⟩ | ⟨-, rfl⟩ | ⟨u, hu, rfl⟩ | ⟨i, u, hu, hexec⟩
  · exact inv_engineStep h
  · exact h
  · obtain ⟨rest, -, rfl, -⟩ := nextTurn_rst hu
    exact inv_resetCore h.ibufWf h.obufWf h.ibufBelow h.obufBelow
  · obtain ⟨e, rest, -, -, rfl, -⟩ := nextTurn_host hu
    exact inv_effect (inv_takeEvent h rest) (exec_effect hexec)

/-- Settles O46: the reset state is what RESET makes of itself, and its buffers list nothing. -/
theorem resetMeetsTheInvariants : Obligations.ResetMeetsTheInvariants :=
  inv_resetCore (s := State.reset) Memory.wf_nil Memory.wf_nil (Memory.below_nil _) (Memory.below_nil _)

/-! The engine's step as a completion (R224), and the records of R26 and R27. -/

/-- The DETAIL of an illegal word: every check of DECODE_CMD that rejects a word names 1, 2 or 3 (R27, R76). -/
theorem decodeCmd_illegal {c : Word} {d : BitVec 4} (h : decodeCmd c = .illegal d) : d = 1 ∨ d = 2 ∨ d = 3 := by
  grind [decodeCmd]

/-- The DETAIL of an illegal command, whichever instruction carries it (R164). -/
theorem commandOf_illegal {i : Instr} {d : BitVec 4} (h : commandOf i = some (.illegal d)) :
    d = 1 ∨ d = 2 ∨ d = 3 := by
  cases i with
  | illegal c => exact decodeCmd_illegal (Option.some.inj h)
  | wrCmd c => exact decodeCmd_illegal (Option.some.inj h)
  | _ => cases h

/-- The DETAIL of MISALIGNED (R27, R103). -/
theorem bodyOutcome_eq_misaligned {w : Width} {raw : List Byte} {fn : Width → List CodeUnit → Option (List Byte)}
    {cap : Nat} {d : BitVec 4} (h : bodyOutcome fn cap w raw = .misaligned d) : d = 2 ∨ d = 4 := by
  unfold bodyOutcome at h
  split at h
  · split at h
    · cases h
    · split at h <;> cases h
  · rename_i hl
    cases h
    rcases lengthOk_eq_false.mp (Bool.eq_false_of_not_eq_true hl) with ⟨rfl, -⟩ | ⟨rfl, -⟩
    · exact .inl rfl
    · exact .inr rfl

/-- The DETAIL of ENC_FAILED (R27, R114, R123). -/
theorem bodyOutcome_eq_failed {w : Width} {raw : List Byte} {fn : Width → List CodeUnit → Option (List Byte)}
    {cap : Nat} {d : BitVec 4} (h : bodyOutcome fn cap w raw = .failed d) : d = 0 ∨ d = 1 := by
  unfold bodyOutcome at h
  split at h
  · split at h
    · cases h
      exact .inl rfl
    · split at h
      · cases h
        exact .inr rfl
      · cases h
  · cases h

/-- With a command latched, the engine's step ends in the completion primitive (R224), with a row of R27's table. -/
theorem engineStep_completes {s : State} (h : s.latOp ≠ .none) :
    ∃ u r d, engineStep s = State.complete u r d ∧ Safety.RecordLegal (u.status.complete r d) := by
  cases hl : s.latOp with
  | none => exact absurd hl h
  | hdr => exact ⟨_, _, _, engineStep_hdr hl, rfl⟩
  | body =>
    rw [engineStep_body hl]
    cases ho : bodyOutcome Config.bodyFn Config.obufCap s.latW (rawInput s) with
    | misaligned d => exact ⟨_, _, _, rfl, bodyOutcome_eq_misaligned ho⟩
    | failed d => exact ⟨_, _, _, rfl, bodyOutcome_eq_failed ho⟩
    | body b => exact ⟨_, _, _, rfl, rfl⟩

theorem engineStep_done {s : State} (h : s.latOp ≠ .none) : (engineStep s).status.done = true := by
  obtain ⟨u, r, d, he, -⟩ := engineStep_completes h
  rw [he]
  rfl

/-- With no host event pending, a latched command is the engine's turn (R59, R262). -/
theorem nextTurn_engine_of_bus_nil {s : State} (hb : s.bus = []) (hl : s.latOp ≠ .none) : nextTurn s = .engine := by
  simp [nextTurn, hb, hl]

/-- With no host event pending and no command latched, nothing is enabled (R239). -/
theorem nextTurn_idle_of_bus_nil {s : State} (hb : s.bus = []) (hl : s.latOp = .none) : nextTurn s = .idle := by
  simp [nextTurn, hb, hl]

/-- Settles O43: on its turn the engine completes the latched command; the turns with no host event pending are the
schedule's two. -/
theorem engineStepsExactlyWhenLatched : Obligations.EngineStepsExactlyWhenLatched := by
  intro s
  refine ⟨fun hn => ?_, nextTurn_engine_of_bus_nil, fun hb hl => step_idle (nextTurn_idle_of_bus_nil hb hl)⟩
  have hl := (nextTurn_engine hn).1
  exact ⟨hl, step_engine hn, engineStep_latOp s, engineStep_busy hl, engineStep_done hl⟩

/-- Every command writes a row of R27's table when it is performed (R224, R225, R251). -/
theorem recordLegal_perform {i : Instr} {c : Command} (hc : commandOf i = some c) (s : State) :
    Safety.RecordLegal (perform c s).status := by
  cases c with
  | illegal d => exact commandOf_illegal hc
  | hdr | body | clrIn | clrOut | rewind | srst => exact rfl

/-- An instruction leaves RESULT and DETAIL alone, or writes a row of R27's table. -/
theorem recordLegal_effect {i : Instr} {s t : State} (h : Safety.RecordLegal s.status) (he : Effect s i t) :
    Safety.RecordLegal t.status := by
  cases he with
  | reset => exact rfl
  | command _ _ _ hc => exact recordLegal_perform hc s
  | _ => exact h

/-- Settles O48, by whose turn the step is. -/
theorem stepKeepsLegalRecords : Obligations.StepKeepsLegalRecords := by
  intro s t h hstep
  rcases step_cases hstep with ⟨hn, rfl⟩ | ⟨-, rfl⟩ | ⟨u, -, rfl⟩ | ⟨i, u, hu, hexec⟩
  · obtain ⟨u, r, d, he, hrec⟩ := engineStep_completes (nextTurn_engine hn).1
    rw [he]
    exact hrec
  · exact h
  · exact rfl
  · obtain ⟨e, rest, -, -, rfl, -⟩ := nextTurn_host hu
    exact recordLegal_effect (s := takeEvent rest s) h (exec_effect hexec)

/-! The writers of the buffers (R37, R38). -/

/-- No instruction writes OBUF (R38). -/
theorem effect_obuf {i : Instr} {s t : State} (he : Effect s i t) : t.obuf = s.obuf := by
  cases he with
  | command _ c => exact (perform_buffers c s).2
  | _ => rfl

/-- An instruction leaves IBUF alone, or it is a push of one byte at IN_LEN (R37, R187). -/
theorem effect_ibuf {i : Instr} {s t : State} (he : Effect s i t) :
    t.ibuf = s.ibuf ∨ ∃ data, i = .wrInData data ∧ t.ibuf = Memory.write s.ibuf s.inLen (byteOperand data) := by
  cases he with
  | push data => exact .inr ⟨data, rfl, rfl⟩
  | command _ c => exact .inl (perform_buffers c s).1
  | _ => exact .inl rfl

/-- Settles O49: no instruction writes OBUF, and the one that writes IBUF writes the byte at IN_LEN. -/
theorem instructionsLeaveBufferBytes : Obligations.InstructionsLeaveBufferBytes := by
  intro i s t hwf hexec
  have he := exec_effect hexec
  refine ⟨fun a => by rw [effect_obuf he], fun a ha => ?_⟩
  rcases effect_ibuf he with heq | ⟨data, hi, heq⟩
  · rw [heq]
  · rw [heq, Memory.read_write_other hwf (ha ⟨data, hi⟩)]

/-- The engine's step leaves OBUF alone, or it completes a BODY command with a body that it writes from index 0 (R38,
R102, R124). -/
theorem engineStep_obuf (s : State) :
    (engineStep s).obuf = s.obuf ∨
    ∃ b, s.latOp = .body ∧ Config.bodyFn s.latW (units s.latW (rawInput s)) = some b ∧
      engineStep s = bodyFinish (.body b) s := by
  cases hl : s.latOp with
  | none => exact .inl (by rw [engineStep_none hl])
  | hdr => exact .inl (by rw [engineStep_hdr hl]; rfl)
  | body =>
    rw [engineStep_body hl]
    cases ho : bodyOutcome Config.bodyFn Config.obufCap s.latW (rawInput s) with
    | misaligned d => exact .inl rfl
    | failed d => exact .inl rfl
    | body b =>
      obtain ⟨-, hfn, -⟩ := bodyOutcome_eq_body ho
      exact .inr ⟨b, rfl, hfn, rfl⟩

/-- Settles O50, by whose turn the step is: only a completion writes OBUF. -/
theorem obufChangesOnlyOnSuccess : Obligations.ObufChangesOnlyOnSuccess := by
  intro s t hstep
  rcases step_cases hstep with ⟨hn, rfl⟩ | ⟨-, rfl⟩ | ⟨u, hu, rfl⟩ | ⟨i, u, hu, hexec⟩
  · rcases engineStep_obuf s with h | ⟨b, hl, hfn, he⟩
    · exact .inl h
    · rw [he]
      exact .inr ⟨hl, hn, rfl, rfl, b, hfn, rfl, rfl⟩
  · exact .inl rfl
  · obtain ⟨rest, -, rfl, -⟩ := nextTurn_rst hu
    exact .inl rfl
  · obtain ⟨e, rest, -, -, rfl, -⟩ := nextTurn_host hu
    exact .inl (effect_obuf (s := takeEvent rest s) (exec_effect hexec))

/-! The writers of SIZE and of the latch (R28, R36), and the reset values (R41). -/

/-- RESET writes every register its reset value (R41, R251). -/
theorem registers_resetCore (s : State) : Safety.registers s.resetCore = State.reset := rfl

/-- A command leaves SIZE alone, but for SRST, which resets every register (R28). -/
theorem perform_size (c : Command) (s : State) :
    (perform c s).size = s.size ∨ Safety.registers (perform c s) = State.reset := by
  cases c with
  | srst => exact .inr (registers_resetCore s)
  | hdr | body | clrIn | clrOut | rewind | illegal => exact .inl rfl

/-- An instruction leaves SIZE alone, writes it, or resets every register (R28). -/
theorem effect_size {i : Instr} {s t : State} (he : Effect s i t) :
    t.size = s.size ∨ i = .wrSize t.size ∨ Safety.registers t = State.reset := by
  cases he with
  | size data => exact .inr (.inl rfl)
  | reset => exact .inr (.inr (registers_resetCore s))
  | command _ c => exact (perform_size c s).imp_right .inr
  | _ => exact .inl rfl

/-- Settles O51, by whose turn the step is. -/
theorem sizeChangesOnlyByWriteOrReset : Obligations.SizeChangesOnlyByWriteOrReset := by
  intro s t hstep hne
  rcases step_cases hstep with ⟨-, rfl⟩ | ⟨-, rfl⟩ | ⟨u, -, rfl⟩ | ⟨i, u, hu, hexec⟩
  · obtain ⟨-, -, -, -, hsize, -⟩ := engineStep_frame s
    exact absurd hsize hne
  · exact absurd rfl hne
  · exact .inr (registers_resetCore u)
  · obtain ⟨e, rest, -, -, rfl, -⟩ := nextTurn_host hu
    rcases effect_size (exec_effect hexec) with hsize | rfl | hreset
    · exact absurd hsize hne
    · exact .inl ⟨_, _, hu, rfl⟩
    · exact .inr hreset

/-- An instruction that the host can issue latches a command only as an HDR or BODY row, or as a CMD write of a word
that decodes to one (R100, R140, R225); an ILLEGAL row carries no such word (R78). -/
theorem perform_latches {e : Encoded} {i : Instr} {c : Command} {s : State} (hd : decode e = .ok i)
    (hc : commandOf i = some c) (hl : (perform c s).latOp ≠ .none) :
    i ∈ [Instr.hdrB, .hdrW, .hdrL] ∧ (perform c s).latOp = .hdr ∨
    i ∈ [Instr.bodyB, .bodyW, .bodyL] ∧ (perform c s).latOp = .body ∨
    ∃ data w, i = .wrCmd data ∧
      (decodeCmd data = .hdr w ∧ (perform c s).latOp = .hdr ∨ decodeCmd data = .body w ∧ (perform c s).latOp = .body) ∧
      (perform c s).latW = w := by
  cases i with
  | hdrB | hdrW | hdrL =>
    cases hc
    exact .inl ⟨by simp, rfl⟩
  | bodyB | bodyW | bodyL =>
    cases hc
    exact .inr (.inl ⟨by simp, rfl⟩)
  | wrCmd data =>
    have hdec : decodeCmd data = c := Option.some.inj hc
    cases c with
    | hdr w => exact .inr (.inr ⟨data, w, rfl, .inl ⟨hdec, rfl⟩, rfl⟩)
    | body w => exact .inr (.inr ⟨data, w, rfl, .inr ⟨hdec, rfl⟩, rfl⟩)
    | clrIn | clrOut | rewind | srst | illegal => exact absurd rfl hl
  | illegal word =>
    obtain ⟨d, hdec⟩ := decodeCmd_of_decode_illegal hd
    obtain rfl : .illegal d = c := hdec.symm.trans (Option.some.inj hc)
    exact absurd rfl hl
  | clrIn | clrOut | rewind | srst =>
    cases hc
    exact absurd rfl hl
  | _ => cases hc

/-- An instruction leaves LAT_OP alone, resets every register, or performs a command met with BUSY = 0 (R36). -/
theorem effect_latOp {i : Instr} {s t : State} (he : Effect s i t) :
    t.latOp = s.latOp ∨ Safety.registers t = State.reset ∨
    ∃ c, s.status.busy = false ∧ commandOf i = some c ∧ t = perform c s := by
  cases he with
  | reset => exact .inr (.inl (registers_resetCore s))
  | command _ c hb hc => exact .inr (.inr ⟨c, hb, hc, rfl⟩)
  | _ => exact .inl rfl

theorem latOp_of_registers_reset {t : State} (h : Safety.registers t = State.reset) : t.latOp = .none :=
  congrArg (fun u : State => u.latOp) h

/-- BUSY is 0 only with no command in flight (R40). -/
theorem latOp_of_idle {s : State} (h : Safety.Inv s) (hb : s.status.busy = false) : s.latOp = .none := by
  by_contra hl
  exact Bool.noConfusion (hb.symm.trans (h.busy_iff.mpr hl))

/-- Settles O53, by whose turn the step is: the engine and the resets empty the latch, and a command met with BUSY = 0,
so with none in flight, fills it. -/
theorem latchChangesOnlyByAcceptCompleteReset : Obligations.LatchChangesOnlyByAcceptCompleteReset := by
  intro s t h hstep hne
  rcases step_cases hstep with ⟨hn, rfl⟩ | ⟨-, rfl⟩ | ⟨u, -, rfl⟩ | ⟨i, u, hu, hexec⟩
  · exact .inr ⟨(nextTurn_engine hn).1, engineStep_latOp s, .inl hn⟩
  · exact absurd rfl hne
  · exact .inr ⟨hne.symm, rfl, .inr (registers_resetCore u)⟩
  · obtain ⟨e, rest, -, hd, rfl, -⟩ := nextTurn_host hu
    rcases effect_latOp (exec_effect hexec) with hsame | hreset | ⟨c, hb, hc, rfl⟩
    · exact absurd hsame hne
    · have hl := latOp_of_registers_reset hreset
      exact .inr ⟨fun h0 => hne (hl.trans h0.symm), hl, .inr hreset⟩
    · have hl : s.latOp = .none := latOp_of_idle h hb
      exact .inl ⟨hl, i, _, hu, perform_latches hd hc (hl ▸ hne)⟩

/-- Settles O45: both reset sources are RESET, whose registers are those of State.reset. -/
theorem resetValues : Obligations.ResetValues := by
  refine ⟨by decide, rfl, rfl, rfl, rfl, rfl, rfl, by decide, by decide, rfl, rfl, rfl, fun s => ?_, fun s u hu => ?_⟩
  · exact ⟨s.resetCore, rfl, registers_resetCore s⟩
  · exact ⟨u.resetCore, step_rst hu, registers_resetCore u⟩

end Sys2Proof.Machine

/-! The register window and the order of host events (20_memory.md): the admission test of R53 as arithmetic, the
host's turns, and the window's place at BASE. -/

namespace Sys2Proof

/-- The word offsets of the window are the multiples of 4 up to 0x3C (R23, R199). -/
theorem Reg.exists_offset_eq_iff {off : Nat} : (∃ r : Reg, off = r.offset) ↔ off % 4 = 0 ∧ off ≤ 0x3C := by
  constructor
  · rintro ⟨r, rfl⟩
    cases r <;> decide
  · rintro ⟨halign, hle⟩
    have hindex : ∀ n < 16, ∃ r, Reg.ofIndex n = some r := by simp only [← Option.isSome_iff_exists]; decide
    obtain ⟨r, hr⟩ := hindex (off / 4) (by omega)
    have hoff := Reg.offset_of_ofIndex hr
    exact ⟨r, by omega⟩

/-- The accesses that the interface admits (R53, R180). -/
theorem exists_admitAccess_ok_iff {off width : Nat} :
    (∃ r, admitAccess off width = .ok r) ↔ width = 4 ∧ off % 4 = 0 ∧ off ≤ 0x3C := by
  rw [← Reg.exists_offset_eq_iff]
  constructor
  · rintro ⟨r, hr⟩
    obtain ⟨hwidth, hoff⟩ := admitAccess_ok hr
    exact ⟨hwidth, r, hoff⟩
  · rintro ⟨rfl, r, rfl⟩
    exact ⟨r, admitAccess_offset r⟩

/-- An access has a meaning exactly when the admission test finds its register, whatever row of the register it is. -/
theorem exists_map_admitAccess_ok_iff {off width : Nat} (row : Reg → Instr) :
    (∃ i, (admitAccess off width).map row = .ok i) ↔ width = 4 ∧ off % 4 = 0 ∧ off ≤ 0x3C := by
  rw [← exists_admitAccess_ok_iff]
  cases admitAccess off width <;> simp [Except.map]

end Sys2Proof

namespace Sys2Proof.Machine

/-- An access without a meaning is refused on the host's turn (R53, R200). -/
theorem nextTurn_refused_of_issue {s : State} {e : Encoded} {r : AccessError} {rest : List HostEvent}
    (hb : s.bus = .issue e :: rest) (hr : engineReady s = false) (hd : decode e = .error r) :
    nextTurn s = .refused r := by
  simp [nextTurn, hb, hr, hd]

/-- Settles O32: the admission test as arithmetic, for reads and writes alike, and the turn of a refused access. -/
theorem unadmittedAccessesHaveNoStep : Obligations.UnadmittedAccessesHaveNoStep := by
  refine ⟨fun off width data => ⟨?_, ?_⟩, fun s e r rest hb hr hd => ?_⟩
  · exact exists_map_admitAccess_ok_iff Reg.readInstr
  · exact exists_map_admitAccess_ok_iff (Reg.writeInstr data)
  · exact step_refused (nextTurn_refused_of_issue hb hr hd)

/-- Settles O44: a step that is not idle is one event of the relation, which takes off the host's sequence that event
alone, or nothing when it is the engine's, and returns at most one value. -/
theorem hostEventsKeepTheirOrder : Obligations.HostEventsKeepTheirOrder := by
  intro s t hstep
  rcases step_follows_coreStep hstep with rfl | ⟨e, v, -, hreads, hbus⟩
  · exact ⟨.inl rfl, .inl rfl⟩
  constructor
  · cases e with
    | engine => exact .inl hbus.symm
    | host e => exact .inr ⟨e, hbus⟩
  · cases v with
    | none => exact .inl hreads
    | some v => exact .inr ⟨v, hreads⟩

/-- Settles O42: it is the host's turn, and the event is taken off its sequence. -/
theorem stepRunsTheDecodedInstruction : Obligations.StepRunsTheDecodedInstruction :=
  fun _ _ _ _ hb hr hd => step_host (nextTurn_issue hb hr hd)

/-- An address of the window is its offset from BASE (R57). -/
theorem windowOffset_base_add {off : Nat} (h : off < 64) : windowOffset (Config.base + off) = some off := by
  simp [windowOffset, h]

/-- No other address reaches the window (R57). -/
theorem windowOffset_outside {addr : Nat} (h : addr < Config.base ∨ Config.base + 64 ≤ addr) :
    windowOffset addr = none :=
  if_neg (by omega)

/-- BASE is 64-byte aligned (R57). -/
theorem base_mod : Config.base % 64 = 0 := Nat.mul_mod_right 64 _

/-- Settles O60, by where the address stands: at an offset below 64 from BASE, or outside the window. -/
theorem windowSitsAtBase : Obligations.WindowSitsAtBase := by
  refine ⟨base_mod, fun addr n v => ⟨?_, fun hout => ?_⟩⟩
  · rintro off hoff rfl
    simp [hostRead, hostWrite, windowOffset_base_add hoff]
  · simp [hostRead, hostWrite, windowOffset_outside hout]

end Sys2Proof.Machine

/-! The encoding (30_encoding.md): DECODE_CMD by arithmetic on the command word, its ten legal words, and the decoder
and the encoder as inverses of each other. -/

namespace Sys2Proof

/-- The OP field against any value, by arithmetic (R72). -/
theorem op_eq_iff {c : Word} {k : BitVec 4} : c.extractLsb' 0 4 = k ↔ c.toNat % 16 = k.toNat := by
  simpa using op_eq c k.isLt

/-- The W field against any value, by arithmetic (R72). -/
theorem wField_eq_iff {c : Word} {k : BitVec 2} : c.extractLsb' 4 2 = k ↔ c.toNat / 16 % 4 = k.toNat := by
  simpa using wField_eq c k.isLt

/-- The width that a command word's W field names, by arithmetic (R74). -/
theorem decodeWidth_wField (c : Word) :
    decodeWidth (c.extractLsb' 4 2) =
      if c.toNat / 16 % 4 = 2 then none
      else some (if c.toNat / 16 % 4 = 0 then .byte else if c.toNat / 16 % 4 = 1 then .word else .longword) := by
  have hlt : c.toNat / 16 % 4 < 4 := Nat.mod_lt _ (by decide)
  simp only [decodeWidth, wField_eq_iff]
  generalize c.toNat / 16 % 4 = n at hlt ⊢
  decide +revert

/-- Settles O28, by R76's checks in their order: the reserved bits, the opcode, and for each opcode the W field. -/
theorem decodeCmdChecksInOrder : Obligations.DecodeCmdChecksInOrder := by
  intro c
  simp only [decodeCmd, ne_eq, rsvd_eq_zero, op_eq_iff, wField_eq_iff, decodeWidth_wField]
  by_cases hrsvd : c.toNat / 64 = 0
  · by_cases hop : c.toNat % 16 ∈ [1, 2, 3, 4, 5, 15]
    · simp only [List.mem_cons, List.not_mem_nil, or_false] at hop
      rcases hop with h | h | h | h | h | h <;> simp [hrsvd, h]
      case inl | inr.inl => by_cases hw : c.toNat / 16 % 4 = 2 <;> simp [hw]
    · simp_all
  · simp [hrsvd]

/-- A word with a reserved bit set is illegal for that, whatever its other fields are (R76). -/
theorem decodeCmd_rsvd {c : Word} (h : c.toNat / 64 ≠ 0) : decodeCmd c = .illegal 3 :=
  if_pos (mt (rsvd_eq_zero c).mp h)

/-- None of R77's ten words is illegal. -/
theorem decodeCmd_ne_illegal_of_mem {c : Word} (hc : c ∈ legalCommandWords) (d : BitVec 4) :
    decodeCmd c ≠ .illegal d := by
  fin_cases hc <;> exact nofun

/-- Of the 64 words with no reserved bit set, each but R77's ten is illegal for its opcode or its width (R76, R78). -/
theorem decodeCmd_illegal_of_lt_64 : ∀ n < 64, BitVec.ofNat 32 n ∉ legalCommandWords →
    decodeCmd (BitVec.ofNat 32 n) = .illegal 1 ∨ decodeCmd (BitVec.ofNat 32 n) = .illegal 2 := by decide

/-- Every word but R77's ten is illegal (R78). -/
theorem exists_decodeCmd_illegal {c : Word} (hc : c ∉ legalCommandWords) : ∃ d, decodeCmd c = .illegal d := by
  by_cases hrsvd : c.toNat / 64 = 0
  · have hword : BitVec.ofNat 32 c.toNat = c := by simp
    have hsmall := decodeCmd_illegal_of_lt_64 c.toNat (by omega)
    rw [hword] at hsmall
    exact (hsmall hc).elim (⟨_, ·⟩) (⟨_, ·⟩)
  · exact ⟨3, decodeCmd_rsvd hrsvd⟩

/-- Settles O29: R77's ten words are decoded one by one, and every other word fails a check of R76. -/
theorem tenLegalCommandWords : Obligations.TenLegalCommandWords := by
  intro c
  exact ⟨fun ⟨d, hd⟩ hc => decodeCmd_ne_illegal_of_mem hc d hd, exists_decodeCmd_illegal⟩

/-- The fallback row (R75, R78). -/
theorem decodeCommand_of_not_mem {c : Word} (hc : c ∉ legalCommandWords) : decodeCommand c = .illegal c := by
  obtain ⟨d, hd⟩ := exists_decodeCmd_illegal hc
  simp [decodeCommand, hd]

theorem Instr.wf_illegal {c : Word} : (Instr.illegal c).wf = true ↔ c ∉ legalCommandWords := by simp [Instr.wf]

/-- Settles O30, by the kinds of rows: the ten fixed command words, an illegal word, which only the fallback row takes,
and the reads and writes, each found by its register's offset. -/
theorem decodeOfEncode : Obligations.DecodeOfEncode := by
  intro i hwf
  cases i with
  | hdrB | hdrW | hdrL | bodyB | bodyW | bodyL | clrIn | clrOut | rewind | srst => rfl
  | illegal c => exact congrArg Except.ok (decodeCommand_of_not_mem (Instr.wf_illegal.mp hwf))
  | rdCmd | rdStatus | rdSize | rdInData | rdInLen | rdOutData | rdOutLen | rdOutPtr | rdHdrLen | rdHdrW0 | rdHdrW1
  | rdCapIn | rdCapOut | rdUnmapped34 | rdUnmapped38 | rdUnmapped3C => exact decode_readOf _
  | wrCmd data | wrStatus data | wrSize data | wrInData data | wrInLen data | wrOutData data | wrOutLen data
  | wrOutPtr data | wrHdrLen data | wrHdrW0 data | wrHdrW1 data | wrCapIn data | wrCapOut data | wrUnmapped34 data
  | wrUnmapped38 data | wrUnmapped3C data => exact decode_writeOf _ data

/-- A register's read row is well-formed and encodes to the 4-byte read at its offset (R23, R71). -/
theorem encode_readInstr (r : Reg) : encode r.readInstr = readOf r ∧ r.readInstr.wf = true := by
  cases r <;> exact ⟨rfl, rfl⟩

/-- A register's write row is well-formed and encodes to the 4-byte write at its offset, data included (R23, R71). -/
theorem encode_writeInstr (r : Reg) (data : Word) :
    encode (r.writeInstr data) = writeOf r data ∧ (r.writeInstr data).wf = true := by
  cases r <;> exact ⟨rfl, rfl⟩

/-- A command word's row is well-formed and encodes to that word: the ten legal words by R77's table, every other word
as the fallback row's own operand (R75, R77, R78). -/
theorem encode_decodeCommand (c : Word) : encode (decodeCommand c) = .command c ∧ (decodeCommand c).wf = true := by
  by_cases hc : c ∈ legalCommandWords
  · fin_cases hc <;> exact ⟨rfl, rfl⟩
  · rw [decodeCommand_of_not_mem hc]
    exact ⟨rfl, Instr.wf_illegal.mpr hc⟩

/-- An access with a meaning is 4 bytes wide, at a register's offset, and its row is that register's (R53, R180). -/
theorem map_admitAccess_ok {off width : Nat} {row : Reg → Instr} {i : Instr}
    (h : (admitAccess off width).map row = .ok i) : ∃ r : Reg, width = 4 ∧ off = r.offset ∧ i = row r := by
  cases ha : admitAccess off width with
  | error e => simp [ha, Except.map] at h
  | ok r =>
    obtain ⟨hwidth, hoff⟩ := admitAccess_ok ha
    simp only [ha, Except.map, Except.ok.injEq] at h
    exact ⟨r, hwidth, hoff, h.symm⟩

/-- Settles O31, by the kind of encoded object: an admitted access is its register's own, and a command word is taken by
the row that encodes to it. -/
theorem encodeOfDecode : Obligations.EncodeOfDecode := by
  intro e i h
  cases e with
  | command c =>
    obtain rfl : decodeCommand c = i := Except.ok.inj h
    exact encode_decodeCommand c
  | access a =>
    cases a with
    | read off width =>
      obtain ⟨r, rfl, rfl, rfl⟩ := map_admitAccess_ok h
      exact encode_readInstr r
    | write off width data =>
      obtain ⟨r, rfl, rfl, rfl⟩ := map_admitAccess_ok h
      exact encode_writeInstr r data

/-- Settles O33: the table words are literals, so the decoder evaluates them. -/
theorem specWordsDecode : Obligations.SpecWordsDecode := ⟨rfl, rfl, rfl, rfl, rfl, rfl, rfl, rfl⟩

end Sys2Proof

/-! The BODY family (40_body_encoder.md): acceptance, and completion as one state equation for each case of
BODY_COMPLETE, over any body function and capacity. -/

namespace Sys2Proof.Machine

section Completion

variable {fn : Width → List CodeUnit → Option (List Byte)} {cap : Nat} {s : State} {b : List Byte}

/-- The first check of BODY_COMPLETE fails (R102, R104). -/
theorem bodyCompleteWith_misaligned (h : lengthOk s.latW s.inLen = false) :
    bodyCompleteWith fn cap s = bodyFinish (.misaligned (expectedMultiple s.latW)) s := by
  rw [bodyCompleteWith, bodyOutcome_misaligned (by rwa [rawInput_length])]

/-- The body function fails (R102, R114). -/
theorem bodyCompleteWith_fail (h : lengthOk s.latW s.inLen = true)
    (hf : fn s.latW (units s.latW (rawInput s)) = none) : bodyCompleteWith fn cap s = bodyFinish (.failed 0) s := by
  rw [bodyCompleteWith, bodyOutcome_fail (by rwa [rawInput_length]) hf]

/-- The body is too long for the output buffer (R102, R123). -/
theorem bodyCompleteWith_overflow (h : lengthOk s.latW s.inLen = true)
    (hf : fn s.latW (units s.latW (rawInput s)) = some b) (hc : cap < b.length) :
    bodyCompleteWith fn cap s = bodyFinish (.failed 1) s := by
  rw [bodyCompleteWith, bodyOutcome_overflow (by rwa [rawInput_length]) hf hc]

/-- The body is stored (R102, R124). -/
theorem bodyCompleteWith_body (h : lengthOk s.latW s.inLen = true)
    (hf : fn s.latW (units s.latW (rawInput s)) = some b) (hc : b.length ≤ cap) :
    bodyCompleteWith fn cap s = bodyFinish (.body b) s := by
  rw [bodyCompleteWith, bodyOutcome_body (by rwa [rawInput_length]) hf hc]

/-- The machine's own completion is that of its BODY_FN and OBUF_CAP. -/
theorem engineStep_eq_bodyCompleteWith (h : s.latOp = .body) :
    engineStep s = bodyCompleteWith Config.bodyFn Config.obufCap s := engineStep_body h

end Completion

/-- EXPECTED_MULTIPLE where the length check fails, which it does only under Word and Longword (R103). -/
theorem expectedMultiple_of_not_lengthOk {w : Width} {n : Nat} (h : lengthOk w n = false) :
    expectedMultiple w = if w = .word then 2 else 4 := by
  cases w with
  | byte => cases h
  | word | longword => rfl

/-- Settles O6, by R102's checks in their order. -/
theorem bodyCompletionByCases : Obligations.BodyCompletionByCases := by
  intro s hl hn hwf
  refine ⟨_, step_engine hn, ?_⟩
  rw [engineStep_eq_bodyCompleteWith hl]
  split
  case isTrue hbad =>
    have hlen := lengthOk_eq_false.mpr hbad
    rw [bodyCompleteWith_misaligned hlen, expectedMultiple_of_not_lengthOk hlen]
    rfl
  case isFalse hgood =>
    have hlen : lengthOk s.latW s.inLen = true := by simpa using mt lengthOk_eq_false.mp hgood
    split
    case h_1 hf =>
      rw [bodyCompleteWith_fail hlen hf]
      rfl
    case h_2 b hf =>
      split
      case isTrue hc =>
        rw [bodyCompleteWith_overflow hlen hf hc]
        rfl
      case isFalse hc =>
        rw [bodyCompleteWith_body hlen hf (Nat.le_of_not_lt hc)]
        exact ⟨Memory.readList_writeList hwf 0 b,
          fun a ha => Memory.read_writeList_outside hwf (.inr (by simpa using ha)), rfl⟩

/-- Only a failed length check gives MISALIGNED (R103, R104). -/
theorem lengthOk_of_result_misaligned {fn : Width → List CodeUnit → Option (List Byte)} {cap : Nat} {s : State}
    (h : (bodyCompleteWith fn cap s).status.result = .misaligned) : lengthOk s.latW s.inLen = false := by
  by_contra hlen
  rw [Bool.not_eq_false] at hlen
  cases hf : fn s.latW (units s.latW (rawInput s)) with
  | none =>
    rw [bodyCompleteWith_fail hlen hf] at h
    cases h
  | some b =>
    rcases Nat.lt_or_ge cap b.length with hc | hc
    · rw [bodyCompleteWith_overflow hlen hf hc] at h
      cases h
    · rw [bodyCompleteWith_body hlen hf hc] at h
      cases h

/-- Settles O7: the length check comes first, and MISALIGNED is its result alone. -/
theorem misalignedBeforeAnyEncoding : Obligations.MisalignedBeforeAnyEncoding := by
  refine fun fn cap s => ⟨fun hw hodd => ?_, fun hw hodd => ?_, fun hok hmis => ?_⟩
  · rw [bodyCompleteWith_misaligned (lengthOk_eq_false.mpr (.inl ⟨hw, hodd⟩)), congrArg expectedMultiple hw]
    rfl
  · rw [bodyCompleteWith_misaligned (lengthOk_eq_false.mpr (.inr ⟨hw, hodd⟩)), congrArg expectedMultiple hw]
    rfl
  · have hbad := lengthOk_eq_false.mp (lengthOk_of_result_misaligned hmis)
    rcases hok with hw | ⟨hw, hn⟩ | ⟨hw, hn⟩ <;> simp_all

/-- Settles O8, by the side of the capacity on which the body's length lies. -/
theorem capacityBoundary : Obligations.CapacityBoundary := by
  refine fun fn cap s b hlen hf => ⟨fun hc => ?_, fun hc => ?_⟩
  · exact ⟨_, bodyCompleteWith_overflow hlen hf hc, rfl⟩
  · rw [bodyCompleteWith_body hlen hf hc]
    exact ⟨rfl, rfl⟩

/-- An IN_DATA write leaves the body as it is: no instruction writes OBUF, and this one does not write OUT_LEN (R38). -/
theorem bodyBytes_of_effect_wrInData {s t : State} {data : Word} (h : Effect s (.wrInData data) t) :
    Safety.bodyBytes t = Safety.bodyBytes s := by
  cases h with
  | command _ c _ hc => cases hc
  | reset _ hc => cases hc
  | _ => rfl

/-- CLRIN leaves the body as it is (R160). -/
theorem bodyBytes_of_effect_clrIn {s t : State} (h : Effect s .clrIn t) : Safety.bodyBytes t = Safety.bodyBytes s := by
  cases h with
  | command _ c _ hc =>
    cases hc
    rfl
  | reset _ hc => cases hc
  | _ => rfl

/-- Settles O9: the body bytes are those that the completion stores, and neither an IN_DATA write nor CLRIN writes what
they are read from. -/
theorem successfulBodyIsReadableAndSeparate : Obligations.SuccessfulBodyIsReadableAndSeparate := by
  intro s b hl hwf ho t
  have ht : t = bodyFinish (.body b) s := (engineStep_body hl).trans (by rw [ho])
  have hbytes : Safety.bodyBytes t = b := ht ▸ bodyBytes_bodyFinish hwf b
  refine ⟨hbytes, ?_, ?_, ?_, ?_, ?_, ?_, ?_, ?_, fun data u hu => ?_, fun u hu => ?_⟩
  case refine_9 => exact (bodyBytes_of_effect_wrInData (exec_effect hu)).trans hbytes
  case refine_10 => exact (bodyBytes_of_effect_clrIn (exec_effect hu)).trans hbytes
  all_goals rw [ht]; rfl

/-- With IN_LEN = 0 every width's length check holds, so BODY stores the empty body, which fits (R8, R113). -/
theorem engineStep_empty {s : State} (hl : s.latOp = .body) (hn : s.inLen = 0) :
    engineStep s = bodyFinish (.body (Config.emptyBody s.latW)) s := by
  have hlen : lengthOk s.latW s.inLen = true := by
    rw [hn]
    cases s.latW <;> rfl
  have hunits : units s.latW (rawInput s) = [] := by simp [units, hn]
  rw [engineStep_eq_bodyCompleteWith hl]
  exact bodyCompleteWith_body hlen (by rw [hunits, Config.bodyFn_nil]) (Config.length_emptyBody_le_obufCap _)

/-- Settles O10. -/
theorem emptyInputBodySucceeds : Obligations.EmptyInputBodySucceeds := by
  refine ⟨fun w => ?_, fun s hl hn => ⟨_, Config.bodyFn_nil s.latW, ?_⟩⟩
  · rw [Config.bodyFn_nil]
    exact nofun
  · rw [engineStep_empty hl hn]
    exact ⟨rfl, rfl, rfl⟩

/-- The RESULT, DETAIL, OUT_LEN and body bytes of a BODY command (R111). -/
def bodyResult (t : State) : Result × BitVec 4 × Nat × List Byte :=
  (t.status.result, t.status.detail, t.outLen, Safety.bodyBytes t)

/-- What a BODY command shows is given by its outcome alone (R102). -/
theorem bodyResult_bodyFinish {s s' : State} (h : Memory.wf s.obuf) (h' : Memory.wf s'.obuf) (o : BodyOutcome) :
    bodyResult (bodyFinish o s) = bodyResult (bodyFinish o s') := by
  cases o with
  | misaligned d => rfl
  | failed d => rfl
  | body b =>
    unfold bodyResult
    rw [bodyBytes_bodyFinish h, bodyBytes_bodyFinish h']
    rfl

/-- Settles O12: the outcome is a function of the width and the input bytes, and it gives the rest. -/
theorem bodyIsDeterministic : Obligations.BodyIsDeterministic := by
  intro s s' hl hl' hwf hwf' hw hraw t t'
  have heq : bodyResult t = bodyResult t' := by
    simp only [t, t', engineStep_body hl, engineStep_body hl', ← hw, ← hraw]
    exact bodyResult_bodyFinish hwf hwf' _
  simpa only [bodyResult, Prod.mk.injEq] using heq

/-- The three BODY rows and their widths (R100). -/
abbrev bodyRows : List (Instr × Width) := [(.bodyB, .byte), (.bodyW, .word), (.bodyL, .longword)]

/-- The rows of BODY.B, BODY.W and BODY.L are acceptance with their width, unless BUSY (R100). -/
theorem exec_body_row {i : Instr} {w : Width} (h : (i, w) ∈ bodyRows) (s : State) :
    exec i s = .next (s.unlessBusy (bodyAccept w)) := by
  fin_cases h <;> rfl

theorem exec_body_row_idle {i : Instr} {w : Width} (h : (i, w) ∈ bodyRows) {s : State}
    (hb : s.status.busy = false) : exec i s = .next (bodyAccept w s) := by
  rw [exec_body_row h, State.unlessBusy_idle hb]

/-- A CMD write met with BUSY = 0 performs the command that its word decodes to (R181). -/
theorem exec_wrCmd_idle {s : State} (hb : s.status.busy = false) {c : Word} {k : Command} (hc : decodeCmd c = k) :
    exec (.wrCmd c) s = .next (perform k s) := by
  rw [← hc, ← cmdWrite_idle hb]
  rfl

/-- Settles O5: the row and the CMD write are both BODY_ACCEPT. -/
theorem bodyAcceptLatchesAndHidesBody : Obligations.BodyAcceptLatchesAndHidesBody :=
  fun s hb _ w hrow => ⟨bodyAccept w s, exec_body_row_idle hrow hb, fun _ hc => exec_wrCmd_idle hb hc, rfl⟩

/-- No outcome of a BODY command touches the header (R126). -/
theorem bodyFinish_header (o : BodyOutcome) (s : State) :
    (bodyFinish o s).hb = s.hb ∧ (bodyFinish o s).hdrLen = s.hdrLen ∧
      (bodyFinish o s).status.hdrValid = s.status.hdrValid := by
  cases o <;> exact ⟨rfl, rfl, rfl⟩

/-- Settles O13: acceptance writes none of these fields, and neither does the engine's step. -/
theorem bodyLeavesInputAndHeader : Obligations.BodyLeavesInputAndHeader := by
  intro i hi s t hb hexec u
  obtain ⟨w, hrow⟩ : ∃ w, (i, w) ∈ bodyRows := by fin_cases hi <;> simp
  obtain rfl : bodyAccept w s = t := Host.Outcome.next.inj ((exec_body_row_idle hrow hb).symm.trans hexec)
  obtain ⟨-, -, -, -, hsize, hinLen, hibuf, -, -, hovf, hunf, hviol⟩ := engineStep_frame (bodyAccept w s)
  have hu : u = bodyFinish _ (bodyAccept w s) := engineStep_body rfl
  obtain ⟨hhb, hhdrLen, hvalid⟩ := hu ▸ bodyFinish_header _ (bodyAccept w s)
  exact ⟨fun a => congrArg (Memory.read · a) hibuf, hinLen, hsize, hhb, hhdrLen, hvalid, hovf, hunf, hviol⟩

/-- Settles O11: the scenario's units are those that BODY_FN gives its short body for. -/
theorem scenarioBodyIsShort : Obligations.ScenarioBodyIsShort := by
  have hunits : units .byte [0xAA, 0xAA, 0xAA, 0xAA, 0xBB] = Config.scenarioUnits := by decide
  refine ⟨Config.scenarioBody, by rw [hunits]; rfl, ?_⟩
  exact Nat.lt_succ_of_le (List.length_take_le 4 _)

/-- The header that HDR stores is the header bytes, however many (R147, R264). -/
theorem headerBytes_hdrComplete (s : State) : Safety.headerBytes (hdrComplete s) = hdrBytes s.latSize s.latW := by
  rcases Nat.lt_or_ge 65535 s.latSize.toNat with hl | hl
  · simp [Safety.headerBytes, hdrBytes_large hl]
  · simp [Safety.headerBytes, hdrBytes_small hl]

/-- The header stays while a BODY command is accepted and completed (R126). -/
theorem headerBytes_bodyFinish (o : BodyOutcome) (s : State) :
    Safety.headerBytes (bodyFinish o s) = Safety.headerBytes s := by
  cases o <;> rfl

theorem decodeCmd_hdrCommand (w : Width) : decodeCmd (hdrCommand w) = .hdr w := by cases w <;> decide

theorem decodeCmd_bodyCommand (w : Width) : decodeCmd (bodyCommand w) = .body w := by cases w <;> decide

/-- SUCCESS is the result of a stored body alone (R102). -/
theorem bodyOutcome_of_success {fn : Width → List CodeUnit → Option (List Byte)} {cap : Nat} {s : State}
    (h : (bodyCompleteWith fn cap s).status.result = .success) :
    ∃ b, bodyOutcome fn cap s.latW (rawInput s) = .body b := by
  unfold bodyCompleteWith at h
  cases ho : bodyOutcome fn cap s.latW (rawInput s) with
  | misaligned d => rw [ho] at h; cases h
  | failed d => rw [ho] at h; cases h
  | body b => exact ⟨b, rfl⟩

/-- The state in which a BODY command of a session completes: HDR accepted and completed, then BODY accepted. -/
abbrev sessionState (w : Width) (s : State) : State := bodyAccept w (hdrComplete (hdrAccept w s))

/-- A session's container is the header of SIZE and the width, then the body (R149). -/
theorem container_session {w : Width} {s : State} (hwf : Memory.wf s.obuf) (b : List Byte) :
    Safety.container (bodyFinish (.body b) (sessionState w s)) = hdrBytes s.size w ++ b := by
  have hheader : Safety.headerBytes (sessionState w s) = hdrBytes s.size w := headerBytes_hdrComplete (hdrAccept w s)
  rw [Safety.container, headerBytes_bodyFinish, bodyBytes_bodyFinish (s := sessionState w s) hwf, hheader]

/-- Settles O58: the session leaves the input as it is, so its container is the one that the law speaks of. -/
theorem sessionContainerDecodesToInput : Obligations.SessionContainerDecodesToInput := by
  intro fn dec cap w s t u hlaw hwf hb hle hsize ht hu hsucc
  obtain rfl : hdrAccept w s = t :=
    Host.Outcome.next.inj ((exec_wrCmd_idle hb (decodeCmd_hdrCommand w)).symm.trans ht)
  obtain rfl : sessionState w s = u :=
    Host.Outcome.next.inj ((exec_wrCmd_idle rfl (decodeCmd_bodyCommand w)).symm.trans hu)
  obtain ⟨b, ho⟩ := bodyOutcome_of_success hsucc
  obtain ⟨hlen, hfn, -⟩ := bodyOutcome_eq_body ho
  rw [bodyCompleteWith, ho, container_session hwf, hsize, ← rawInput_length s]
  exact hlaw w (rawInput s) b hlen (by rwa [rawInput_length]) hfn

end Sys2Proof.Machine

/-! The units of the input (R105) and their maximal runs (R106). -/

namespace Sys2Proof.Machine

/-- The length check asks for whole units (R103). -/
theorem unitBytes_dvd_of_lengthOk {w : Width} {n : Nat} (h : lengthOk w n = true) : unitBytes w ∣ n := by
  cases w with
  | byte => exact one_dvd n
  | word | longword => exact Nat.dvd_of_mod_eq_zero (of_decide_eq_true h)

/-- The first `n` chunks of `k` elements make up the first `n * k` elements. -/
theorem flatten_chunks {α : Type} (xs : List α) (k n : Nat) :
    ((List.range n).map fun i => (xs.drop (i * k)).take k).flatten = xs.take (n * k) := by
  induction n with
  | zero => simp
  | succ n ih => simp [List.range_succ, ih, Nat.succ_mul, List.take_add]

/-- Settles O14: a unit ends within the input, since their number is rounded down, and together they reach its end,
since the length check leaves no partial unit. -/
theorem unitsPartitionTheInput : Obligations.UnitsPartitionTheInput := by
  refine fun w raw hok => ⟨by simp [units], fun u hu => ?_, ?_, fun i hi => by simp [units, hi]⟩
  · obtain ⟨i, hi, rfl⟩ := List.mem_map.mp hu
    have hend : (i + 1) * unitBytes w ≤ raw.length :=
      (Nat.mul_le_mul_right _ (List.mem_range.mp hi)).trans (Nat.div_mul_le_self _ _)
    rw [Nat.succ_mul] at hend
    simp only [List.length_take, List.length_drop]
    omega
  · rw [units, flatten_chunks, Nat.div_mul_cancel (unitBytes_dvd_of_lengthOk hok), List.take_length]

/-- The units that a list of (value, length) pairs stands for. -/
def runSpan (rs : List (CodeUnit × Nat)) : List CodeUnit := (rs.map fun q => List.replicate q.2 q.1).flatten

@[simp] theorem runSpan_nil : runSpan [] = [] := rfl

@[simp] theorem runSpan_cons (v : CodeUnit) (n : Nat) (rs : List (CodeUnit × Nat)) :
    runSpan ((v, n) :: rs) = List.replicate n v ++ runSpan rs := rfl

@[simp] theorem runSpan_append (rs rs' : List (CodeUnit × Nat)) : runSpan (rs ++ rs') = runSpan rs ++ runSpan rs' := by
  simp [runSpan]

/-- A list of maximal runs: positive lengths, and adjacent values that differ (R106). -/
abbrev IsRuns (rs : List (CodeUnit × Nat)) : Prop := (∀ q ∈ rs, 1 ≤ q.2) ∧ rs.IsChain fun q q' => q.1 ≠ q'.1

theorem IsRuns.of_append_left {l r : List (CodeUnit × Nat)} (h : IsRuns (l ++ r)) : IsRuns l :=
  ⟨fun q hq => h.1 q (List.mem_append_left _ hq), h.2.left_of_append⟩

theorem IsRuns.of_append_right {l r : List (CodeUnit × Nat)} (h : IsRuns (l ++ r)) : IsRuns r :=
  ⟨fun q hq => h.1 q (List.mem_append_right _ hq), h.2.right_of_append⟩

theorem isRuns_cons {q : CodeUnit × Nat} {rs : List (CodeUnit × Nat)} :
    IsRuns (q :: rs) ↔ 1 ≤ q.2 ∧ (∀ q' ∈ rs.head?, q.1 ≠ q'.1) ∧ IsRuns rs := by
  simp only [IsRuns, List.forall_mem_cons, List.isChain_cons]
  tauto

/-- RUNS with one more unit in front: the first run grows if it is of that unit, and otherwise a new one begins. -/
theorem runs_cons_cases (v : CodeUnit) (us : List CodeUnit) :
    (∃ n rest, runs us = (v, n) :: rest ∧ runs (v :: us) = (v, n + 1) :: rest) ∨
    ((∀ q ∈ (runs us).head?, v ≠ q.1) ∧ runs (v :: us) = (v, 1) :: runs us) := by
  simp only [runs]
  split
  case h_1 h => exact .inr ⟨by simp [h], by rw [h]⟩
  case h_2 v' n rest h =>
    split
    case isTrue hv => exact .inl ⟨n, rest, by rw [h, hv], rfl⟩
    case isFalse hv => exact .inr ⟨by simpa [h] using hv, by rw [h]⟩

theorem isRuns_runs (u : List CodeUnit) : IsRuns (runs u) := by
  induction u with
  | nil => exact ⟨nofun, .nil⟩
  | cons v us ih =>
    rcases runs_cons_cases v us with ⟨n, rest, hus, hrun⟩ | ⟨hne, hrun⟩
    · rw [hus, isRuns_cons] at ih
      rw [hrun, isRuns_cons]
      exact ⟨Nat.le_add_left 1 n, ih.2⟩
    · rw [hrun, isRuns_cons]
      exact ⟨Nat.le_refl 1, hne, ih⟩

@[simp] theorem runSpan_runs (u : List CodeUnit) : runSpan (runs u) = u := by
  induction u with
  | nil => rfl
  | cons v us ih =>
    rcases runs_cons_cases v us with ⟨n, rest, hus, hrun⟩ | ⟨-, hrun⟩
    · rw [hus, runSpan_cons] at ih
      rw [hrun, runSpan_cons, List.replicate_succ, List.cons_append, ih]
    · rw [hrun, runSpan_cons, ih]
      rfl

/-- Repeats of one value before units that begin with no further one are one run. -/
theorem runs_replicate_append {v : CodeUnit} {us : List CodeUnit} (h : ∀ q ∈ (runs us).head?, v ≠ q.1) (n : Nat) :
    runs (List.replicate (n + 1) v ++ us) = (v, n + 1) :: runs us := by
  induction n with
  | zero =>
    rcases runs_cons_cases v us with ⟨n, rest, hus, -⟩ | ⟨-, hrun⟩
    · simp [hus] at h
    · exact hrun
  | succ n ih =>
    rw [List.replicate_succ, List.cons_append, runs, ih]
    exact if_pos rfl

/-- Maximal runs are the runs of what they stand for (R106). -/
theorem runs_runSpan {d : List (CodeUnit × Nat)} (h : IsRuns d) : runs (runSpan d) = d := by
  induction d with
  | nil => rfl
  | cons q rest ih =>
    obtain ⟨v, n⟩ := q
    obtain ⟨hpos, hne, hrest⟩ := isRuns_cons.mp h
    obtain ⟨m, rfl⟩ := Nat.exists_eq_add_of_le' hpos
    have hruns := ih hrest
    rw [runSpan_cons, runs_replicate_append (by rwa [hruns]), hruns]

/-- Settles O15: RUNS is such a decomposition, and any other is the RUNS of what it stands for. -/
theorem runsAreTheUniqueMaximalRuns : Obligations.RunsAreTheUniqueMaximalRuns := by
  intro u d
  constructor
  · rintro ⟨hpos, hchain, hspan⟩
    exact (runs_runSpan ⟨hpos, hchain⟩).symm.trans (congrArg runs hspan)
  · rintro rfl
    obtain ⟨hpos, hchain⟩ := isRuns_runs u
    exact ⟨hpos, hchain, runSpan_runs u⟩

end Sys2Proof.Machine

/-! The reference segmentation (R118, R119, R122). SEG's loop takes a run as short, when it joins the literal span, or
as long, when it becomes repeats; every proof about it is an induction over the runs with these two cases. -/

namespace Sys2Proof.Machine

/-- Units that begin with repeats of a value begin with a run of it at least as long. -/
theorem exists_runs_replicate_append (v : CodeUnit) (us : List CodeUnit) (k : Nat) :
    ∃ n rest, runs (List.replicate (k + 1) v ++ us) = (v, n) :: rest ∧ k + 1 ≤ n := by
  induction k with
  | zero =>
    rcases runs_cons_cases v us with ⟨n, rest, -, hrun⟩ | ⟨-, hrun⟩
    · exact ⟨n + 1, rest, hrun, Nat.le_add_left 1 n⟩
    · exact ⟨1, runs us, hrun, Nat.le_refl 1⟩
  | succ k ih =>
    obtain ⟨n, rest, hrun, hle⟩ := ih
    refine ⟨n + 1, rest, ?_, Nat.succ_le_succ hle⟩
    rw [List.replicate_succ, List.cons_append, runs, hrun]
    exact if_pos rfl

/-- Consecutive repeats of a value lie within a run at least as long. -/
theorem exists_run_of_replicate_isInfix {v : CodeUnit} {k : Nat} (hk : 1 ≤ k) {u : List CodeUnit}
    (h : List.replicate k v <:+: u) : ∃ q ∈ runs u, k ≤ q.2 := by
  obtain ⟨k, rfl⟩ := Nat.exists_eq_add_of_le' hk
  induction u with
  | nil => simp at h
  | cons x us ih =>
    rcases List.infix_cons_iff.mp h with ⟨t, ht⟩ | h
    · obtain ⟨n, rest, hrun, hle⟩ := exists_runs_replicate_append v t k
      rw [← ht, hrun]
      exact ⟨_, List.mem_cons_self, hle⟩
    · obtain ⟨q, hq, hle⟩ := ih h
      rcases runs_cons_cases x us with ⟨n, rest, hus, hrun⟩ | ⟨-, hrun⟩
      · rw [hus] at hq
        rw [hrun]
        rcases List.mem_cons.mp hq with rfl | hq
        · exact ⟨_, List.mem_cons_self, Nat.le_succ_of_le hle⟩
        · exact ⟨q, List.mem_cons_of_mem _ hq, hle⟩
      · rw [hrun]
        exact ⟨q, List.mem_cons_of_mem _ hq, hle⟩

/-- The units that a list of segments stands for (R108). -/
def expandAll (ss : List Segment) : List CodeUnit := (ss.map Segment.expand).flatten

@[simp] theorem expandAll_nil : expandAll [] = [] := rfl

@[simp] theorem expandAll_append (ss ss' : List Segment) : expandAll (ss ++ ss') = expandAll ss ++ expandAll ss' := by
  simp [expandAll]

theorem expandAll_map_rep (v : CodeUnit) (cs : List Nat) :
    expandAll (cs.map (Segment.rep v)) = List.replicate cs.sum v := by
  induction cs with
  | nil => rfl
  | cons c cs ih =>
    rw [List.sum_cons, List.replicate_add, ← ih]
    rfl

@[simp] theorem flushFuel_nil (p : RefParams) (fuel : Nat) : flushFuel p fuel [] = [] := by cases fuel <;> rfl

@[simp] theorem flush_nil (p : RefParams) : flush p [] = [] := rfl

/-- The repeat segments of a run (R119). -/
def repeats (p : RefParams) (v : CodeUnit) (n : Nat) : List Segment := (chop p n).1.map (Segment.rep v)

/-- A run shorter than MIN_RUN is all remainder (R119). -/
theorem chopFuel_of_lt {p : RefParams} {n : Nat} (h : n < p.minRun) (fuel : Nat) : chopFuel p fuel n = ([], n) := by
  cases fuel with
  | zero => rfl
  | succ fuel => exact if_neg (Nat.not_le_of_lt h)

/-- A short run joins the literal span (R119). -/
theorem segFrom_short {p : RefParams} {n : Nat} (h : n < p.minRun) (lit : List CodeUnit) (v : CodeUnit)
    (rest : List (CodeUnit × Nat)) :
    segFrom p lit ((v, n) :: rest) = segFrom p (lit ++ List.replicate n v) rest := by
  simp only [segFrom, chop, chopFuel_of_lt h]

/-- Short runs join the literal span one after another. -/
theorem segFrom_append_short {p : RefParams} {ms : List (CodeUnit × Nat)} (h : ∀ q ∈ ms, q.2 < p.minRun)
    (lit : List CodeUnit) (rs : List (CodeUnit × Nat)) :
    segFrom p lit (ms ++ rs) = segFrom p (lit ++ runSpan ms) rs := by
  induction ms generalizing lit with
  | nil => simp
  | cons q ms ih =>
    obtain ⟨hq, hms⟩ := List.forall_mem_cons.mp h
    rw [List.cons_append, segFrom_short hq, ih hms, List.append_assoc]
    rfl

/-- The order of segments in SEG (R122, points 6 and 7): a segment is full where one of its kind follows. -/
def MayPrecede (p : RefParams) : Segment → Segment → Prop
  | .lit a, .lit _ => p.maxLit = some a.length
  | .rep v c, .rep v' _ => v = v' → p.maxRun = some c
  | _, _ => True

section

variable {p : RefParams} (hp : p.Wf)

include hp

theorem sum_chop (n : Nat) : (chop p n).1.sum + (chop p n).2 = n := (chopFuel_spec p hp n n (Nat.le_refl n)).1

theorem chop_remainder_lt (n : Nat) : (chop p n).2 < p.minRun := by
  obtain ⟨-, hrem, -⟩ := chopFuel_spec p hp n n (Nat.le_refl n)
  exact hrem

/-- A run of at least MIN_RUN units has a repeat segment (R119). -/
theorem chop_ne_nil {n : Nat} (h : p.minRun ≤ n) : (chop p n).1 ≠ [] := by
  intro hnil
  have hsum := sum_chop hp n
  have hrem := chop_remainder_lt hp n
  rw [hnil, List.sum_nil] at hsum
  omega

/-- A long run ends the literal span, and its remainder begins the next (R119). -/
theorem segFrom_long {n : Nat} (h : p.minRun ≤ n) (lit : List CodeUnit) (v : CodeUnit) (rest : List (CodeUnit × Nat)) :
    segFrom p lit ((v, n) :: rest) =
      flush p lit ++ repeats p v n ++ segFrom p (List.replicate (chop p n).2 v) rest := by
  rcases segFrom_cons p lit v n rest with ⟨hnil, -⟩ | ⟨-, heq⟩
  · exact absurd hnil (chop_ne_nil hp h)
  · exact heq

/-- A run's repeats and remainder are the run. -/
theorem expandAll_repeats (v : CodeUnit) (n : Nat) :
    expandAll (repeats p v n) ++ List.replicate (chop p n).2 v = List.replicate n v := by
  rw [repeats, expandAll_map_rep, List.replicate_append_replicate, sum_chop hp]

theorem expandAll_flush (lit : List CodeUnit) : expandAll (flush p lit) = lit :=
  (flushFuel_spec p hp lit.length lit (Nat.le_refl _)).1

/-- FLUSH gives pieces of the span, within their bounds (R119). -/
theorem mem_flush {lit : List CodeUnit} {x : Segment} (h : x ∈ flush p lit) :
    ∃ us, x = .lit us ∧ us <:+: lit ∧ 1 ≤ us.length ∧ ∀ m ∈ p.maxLit, us.length ≤ m := by
  obtain ⟨-, hpieces, -⟩ := flushFuel_spec p hp lit.length lit (Nat.le_refl _)
  exact hpieces x h

/-- SEG's loop loses no unit and moves none (R122, point 1). -/
theorem expandAll_segFrom (lit : List CodeUnit) (rs : List (CodeUnit × Nat)) :
    expandAll (segFrom p lit rs) = lit ++ runSpan rs := by
  induction rs generalizing lit with
  | nil => exact (expandAll_flush hp lit).trans (List.append_nil lit).symm
  | cons q rest ih =>
    obtain ⟨v, n⟩ := q
    rw [runSpan_cons]
    rcases Nat.lt_or_ge n p.minRun with hn | hn
    · rw [segFrom_short hn, ih, List.append_assoc]
    · rw [segFrom_long hp hn, expandAll_append, expandAll_append, expandAll_flush hp, ih, ← expandAll_repeats hp v n]
      simp

/-- A long run ends the literal span wherever it stands, so that SEG falls apart there. -/
theorem segFrom_append_long {n : Nat} (h : p.minRun ≤ n) (lit : List CodeUnit) (l : List (CodeUnit × Nat))
    (v : CodeUnit) (r : List (CodeUnit × Nat)) :
    segFrom p lit (l ++ (v, n) :: r) =
      segFrom p lit l ++ repeats p v n ++ segFrom p (List.replicate (chop p n).2 v) r := by
  induction l generalizing lit with
  | nil => exact segFrom_long hp h lit v r
  | cons q l ih =>
    obtain ⟨v', n'⟩ := q
    rw [List.cons_append]
    rcases Nat.lt_or_ge n' p.minRun with hn' | hn'
    · rw [segFrom_short hn', segFrom_short hn', ih]
    · rw [segFrom_long hp hn', segFrom_long hp hn', ih]
      simp

/-- Every segment is a repeat of some run, or a piece of a span of short runs. The span gathered so far is kept as its
runs `ms`, with the runs to come still maximal after it. -/
theorem mem_segFrom {ms rs : List (CodeUnit × Nat)} (hruns : IsRuns (ms ++ rs)) (hms : ∀ q ∈ ms, q.2 < p.minRun)
    {x : Segment} (hx : x ∈ segFrom p (runSpan ms) rs) :
    (∃ v n, x ∈ repeats p v n) ∨
      ∃ ms, IsRuns ms ∧ (∀ q ∈ ms, q.2 < p.minRun) ∧ x ∈ flush p (runSpan ms) := by
  induction rs generalizing ms with
  | nil => exact .inr ⟨ms, hruns.of_append_left, hms, hx⟩
  | cons q rest ih =>
    obtain ⟨v, n⟩ := q
    rcases Nat.lt_or_ge n p.minRun with hn | hn
    · rw [segFrom_short hn] at hx
      refine ih (ms := ms ++ [(v, n)]) (by simpa using hruns) (fun q hq => ?_) (by simpa using hx)
      rcases List.mem_append.mp hq with hq | hq
      · exact hms q hq
      · exact List.mem_singleton.mp hq ▸ hn
    · rw [segFrom_long hp hn, List.mem_append, List.mem_append] at hx
      obtain ⟨-, hne, hrest⟩ := isRuns_cons.mp hruns.of_append_right
      rcases hx with (hx | hx) | hx
      · exact .inr ⟨ms, hruns.of_append_left, hms, hx⟩
      · exact .inl ⟨v, n, hx⟩
      · rcases Nat.eq_zero_or_pos (chop p n).2 with hzero | hpos
        · rw [hzero] at hx
          exact ih (ms := []) hrest nofun hx
        · exact ih (ms := [(v, (chop p n).2)]) (isRuns_cons.mpr ⟨hpos, hne, hrest⟩)
            (by simpa using chop_remainder_lt hp n) (by simpa using hx)

theorem mem_seg {u : List CodeUnit} {x : Segment} (hx : x ∈ seg p u) :
    (∃ v n, x ∈ repeats p v n) ∨
      ∃ ms, IsRuns ms ∧ (∀ q ∈ ms, q.2 < p.minRun) ∧ x ∈ flush p (runSpan ms) :=
  mem_segFrom hp (ms := []) (isRuns_runs u) nofun hx

/-- A repeat segment of SEG is one of a run cut up (R119). -/
theorem mem_chop_of_rep_mem_seg {u : List CodeUnit} {v : CodeUnit} {c : Nat} (h : .rep v c ∈ seg p u) :
    ∃ n, c ∈ (chop p n).1 := by
  rcases mem_seg hp h with ⟨v', n, hx⟩ | ⟨ms, -, -, hx⟩
  · obtain ⟨c', hc', heq⟩ := List.mem_map.mp hx
    cases heq
    exact ⟨n, hc'⟩
  · obtain ⟨us, heq, -⟩ := mem_flush hp hx
    cases heq

/-- A literal segment of SEG is a piece of a span of short runs (R119). -/
theorem mem_flush_of_lit_mem_seg {u us : List CodeUnit} (h : .lit us ∈ seg p u) :
    ∃ ms, IsRuns ms ∧ (∀ q ∈ ms, q.2 < p.minRun) ∧ .lit us ∈ flush p (runSpan ms) := by
  rcases mem_seg hp h with ⟨v, n, hx⟩ | hms
  · obtain ⟨c, -, heq⟩ := List.mem_map.mp hx
    cases heq
  · exact hms

/-- A span that is not empty comes out first, as a literal segment. -/
theorem head_segFrom_lit {lit : List CodeUnit} (h : lit ≠ []) (rs : List (CodeUnit × Nat)) :
    ∃ us rest, segFrom p lit rs = .lit us :: rest := by
  induction rs generalizing lit with
  | nil =>
    cases lit with
    | nil => exact absurd rfl h
    | cons x xs => exact ⟨_, _, rfl⟩
  | cons q rest ih =>
    obtain ⟨v, n⟩ := q
    rcases Nat.lt_or_ge n p.minRun with hn | hn
    · rw [segFrom_short hn]
      exact ih (by simp [h])
    · rw [segFrom_long hp hn]
      cases lit with
      | nil => exact absurd rfl h
      | cons x xs => exact ⟨_, _, rfl⟩

/-- A repeat segment comes out first only with no span gathered. -/
theorem span_nil_of_head_segFrom_rep {lit : List CodeUnit} {rs : List (CodeUnit × Nat)} {v : CodeUnit} {c : Nat}
    (h : .rep v c ∈ (segFrom p lit rs).head?) : lit = [] := by
  by_contra hne
  obtain ⟨us, rest, heq⟩ := head_segFrom_lit hp hne rs
  simp [heq] at h

/-- A repeat segment that comes out first is of the first run. -/
theorem head_segFrom_rep {lit : List CodeUnit} {rs : List (CodeUnit × Nat)} (hpos : ∀ q ∈ rs, 1 ≤ q.2) {v : CodeUnit}
    {c : Nat} (h : .rep v c ∈ (segFrom p lit rs).head?) : ∃ q ∈ rs.head?, q.1 = v := by
  obtain rfl := span_nil_of_head_segFrom_rep hp h
  cases rs with
  | nil => simp [segFrom] at h
  | cons q rest =>
    obtain ⟨w, n⟩ := q
    rcases Nat.lt_or_ge n p.minRun with hn | hn
    · rw [segFrom_short hn] at h
      have hzero : n = 0 := by simpa using span_nil_of_head_segFrom_rep hp h
      have := hpos _ List.mem_cons_self
      omega
    · refine ⟨(w, n), rfl, ?_⟩
      rw [segFrom_long hp hn, repeats] at h
      cases hc : (chop p n).1 with
      | nil => exact absurd hc (chop_ne_nil hp hn)
      | cons d ds =>
        simp only [hc, flush_nil, List.nil_append, List.map_cons, List.cons_append, List.head?_cons,
          Option.mem_some_iff, Segment.rep.injEq] at h
        exact h.1

theorem isChain_flush (lit : List CodeUnit) : (flush p lit).IsChain (MayPrecede p) := by
  refine List.isChain_iff_forall_rel_of_append_cons_cons.mpr fun {x y l r} heq => ?_
  obtain ⟨-, -, hfull⟩ := flushFuel_spec p hp lit.length lit (Nat.le_refl _)
  have hx : x ∈ flush p lit := by simp [heq]
  have hy : y ∈ flush p lit := by simp [heq]
  obtain ⟨a, rfl, -⟩ := mem_flush hp hx
  obtain ⟨b, rfl, -⟩ := mem_flush hp hy
  exact hfull l a _ heq nofun

theorem isChain_repeats (v : CodeUnit) (n : Nat) : (repeats p v n).IsChain (MayPrecede p) := by
  rw [repeats, List.isChain_map]
  refine List.isChain_iff_forall_rel_of_append_cons_cons.mpr fun {c c' l r} heq => ?_
  obtain ⟨-, -, -, hfull⟩ := chopFuel_spec p hp n n (Nat.le_refl n)
  exact fun _ => hfull l c _ heq nofun

/-- SEG's segments stand in order: within a span and within a run by how they are cut up, and after a run's repeats
because the run that follows has another value. -/
theorem isChain_segFrom {lit : List CodeUnit} {rs : List (CodeUnit × Nat)} (hruns : IsRuns rs) :
    (segFrom p lit rs).IsChain (MayPrecede p) := by
  induction rs generalizing lit with
  | nil => exact isChain_flush hp lit
  | cons q rest ih =>
    obtain ⟨v, n⟩ := q
    obtain ⟨-, hne, hrest⟩ := isRuns_cons.mp hruns
    rcases Nat.lt_or_ge n p.minRun with hn | hn
    · rw [segFrom_short hn]
      exact ih hrest
    · rw [segFrom_long hp hn, List.append_assoc]
      refine (isChain_flush hp lit).append ((isChain_repeats hp v n).append (ih hrest) fun x hx y hy => ?_)
        fun x hx y hy => ?_
      · obtain ⟨c, -, rfl⟩ := List.mem_map.mp (List.mem_of_mem_getLast? hx)
        cases y with
        | lit us => trivial
        | rep w d =>
          obtain ⟨q, hq, rfl⟩ := head_segFrom_rep hp hrest.1 hy
          exact fun hv => absurd hv (hne q hq)
      · obtain ⟨us, rfl, -⟩ := mem_flush hp (List.mem_of_mem_getLast? hx)
        rw [List.head?_append_of_ne_nil _ (by simpa [repeats] using chop_ne_nil hp hn)] at hy
        obtain ⟨c, -, rfl⟩ := List.mem_map.mp (List.mem_of_mem_head? hy)
        trivial

end

/-- Settles O16: the loop keeps the units, and each segment's bounds are those of the cut it comes from. -/
theorem segmentsRestoreUnitsWithinBounds : Obligations.SegmentsRestoreUnitsWithinBounds := by
  intro p hp u
  refine ⟨?_, rfl, fun v c hx => ?_, fun us hx => ?_⟩
  · exact (expandAll_segFrom hp [] (runs u)).trans (runSpan_runs u)
  · obtain ⟨n, hc⟩ := mem_chop_of_rep_mem_seg hp hx
    obtain ⟨-, -, hbounds, -⟩ := chopFuel_spec p hp n n (Nat.le_refl n)
    exact hbounds c hc
  · obtain ⟨ms, -, -, hx⟩ := mem_flush_of_lit_mem_seg hp hx
    obtain ⟨us', heq, -, hbounds⟩ := mem_flush hp hx
    cases heq
    exact hbounds

/-- Settles O17: consecutive repeats in a literal would lie within one of the short runs that it is a piece of. -/
theorem literalsHoldNoLongRun : Obligations.LiteralsHoldNoLongRun := by
  intro p hp u us hx v hrep
  obtain ⟨ms, hruns, hshort, hx⟩ := mem_flush_of_lit_mem_seg hp hx
  obtain ⟨us', heq, hpiece, -⟩ := mem_flush hp hx
  cases heq
  obtain ⟨q, hq, hle⟩ := exists_run_of_replicate_isInfix (by have := hp.1; omega) (hrep.trans hpiece)
  rw [runs_runSpan hruns] at hq
  exact absurd (hshort q hq) (Nat.not_lt_of_le hle)

/-- Settles O18, from the order in which SEG's segments stand. -/
theorem adjacentSegmentsOnlyAfterFullOnes : Obligations.AdjacentSegmentsOnlyAfterFullOnes := by
  intro p hp u l r
  have horder : ∀ x y, seg p u = l ++ [x, y] ++ r → MayPrecede p x y := fun x y heq =>
    List.isChain_iff_forall_rel_of_append_cons_cons.mp (isChain_segFrom hp (isRuns_runs u))
      (l₁ := l) (l₂ := r) (heq.trans (List.append_assoc ..))
  exact ⟨fun a b heq => horder _ _ heq, fun v c c' heq => horder _ _ heq rfl⟩

/-- Without MAX_LIT a literal span is one literal segment (R119). -/
theorem flush_unbounded {p : RefParams} (hmax : p.maxLit = none) {lit : List CodeUnit} (h : lit ≠ []) :
    flush p lit = [.lit lit] := by
  cases lit with
  | nil => exact absurd rfl h
  | cons x xs => simp [flush, flushFuel, atMost, hmax]

section Unbounded

variable {p : RefParams} (hp : p.Wf)

include hp

/-- Without MAX_RUN a long run is one repeat, with no remainder (R119). -/
theorem chop_unbounded (hmax : p.maxRun = none) {n : Nat} (h : p.minRun ≤ n) : chop p n = ([n], 0) := by
  have hmin : 2 ≤ p.minRun := hp.1
  obtain ⟨k, rfl⟩ : ∃ k, n = k + 1 := ⟨n - 1, by omega⟩
  have hzero : ∀ fuel, chopFuel p fuel 0 = ([], 0) := chopFuel_of_lt (by omega)
  simp [chop, chopFuel, h, atMost, hmax, hzero]

/-- Without MAX_RUN, SEG falls apart at a long run into what stands before it, one repeat, and what stands after. -/
theorem segFrom_append_long_unbounded (hmax : p.maxRun = none) {n : Nat} (h : p.minRun ≤ n) (lit : List CodeUnit)
    (l : List (CodeUnit × Nat)) (v : CodeUnit) (r : List (CodeUnit × Nat)) :
    segFrom p lit (l ++ (v, n) :: r) = segFrom p lit l ++ [.rep v n] ++ segFrom p [] r := by
  rw [segFrom_append_long hp h, repeats, chop_unbounded hp hmax h]
  rfl

/-- Without MAX_RUN, SEG falls apart after a long run. -/
theorem segFrom_append_of_getLast_long (hmax : p.maxRun = none) {l : List (CodeUnit × Nat)}
    (h : ∀ q ∈ l.getLast?, p.minRun ≤ q.2) (rs : List (CodeUnit × Nat)) :
    segFrom p [] (l ++ rs) = segFrom p [] l ++ segFrom p [] rs := by
  rcases List.eq_nil_or_concat l with rfl | ⟨l, ⟨v, n⟩, rfl⟩
  · rfl
  · have hn : p.minRun ≤ n := h (v, n) (by simp)
    rw [List.concat_eq_append, List.append_assoc, List.singleton_append,
      segFrom_append_long_unbounded hp hmax hn, segFrom_append_long_unbounded hp hmax hn]
    simp [segFrom]

/-- Without MAX_LIT a literal span comes out as one literal segment before a long run or at the end. -/
theorem segFrom_of_head_long (hmax : p.maxLit = none) {lit : List CodeUnit} (h : lit ≠ [])
    {r : List (CodeUnit × Nat)} (hr : ∀ q ∈ r.head?, p.minRun ≤ q.2) :
    segFrom p lit r = .lit lit :: segFrom p [] r := by
  cases r with
  | nil => exact flush_unbounded hmax h
  | cons q r =>
    obtain ⟨v, n⟩ := q
    have hn : p.minRun ≤ n := hr (v, n) rfl
    rw [segFrom_long hp hn, segFrom_long hp hn, flush_unbounded hmax h]
    simp

end Unbounded

/-- Runs that are not none stand for units. -/
theorem runSpan_ne_nil {ms : List (CodeUnit × Nat)} (hruns : IsRuns ms) (h : ms ≠ []) : runSpan ms ≠ [] := by
  intro hnil
  rw [← runs_runSpan hruns, hnil] at h
  exact h rfl

/-- Settles O19: SEG falls apart at a long run, and before and after a maximal stretch of short ones. -/
theorem unboundedSegmentsFollowTheRuns : Obligations.UnboundedSegmentsFollowTheRuns := by
  intro p hp hmaxRun hmaxLit u l m r span expand
  have hexpand : ∀ rs, expand (segFrom p [] rs) = span rs := expandAll_segFrom hp []
  refine ⟨fun v n hu hn => ?_, fun hu hm hshort hl hr => ?_⟩
  · refine ⟨segFrom p [] l, segFrom p [] r, ?_, hexpand l, hexpand r⟩
    rw [seg, hu, List.append_assoc]
    exact segFrom_append_long_unbounded hp hmaxRun hn [] l v r
  · refine ⟨segFrom p [] l, segFrom p [] r, ?_, hexpand l, hexpand r⟩
    have hne : runSpan m ≠ [] :=
      runSpan_ne_nil (hu ▸ isRuns_runs u : IsRuns (l ++ m ++ r)).of_append_left.of_append_right hm
    calc seg p u = segFrom p [] (l ++ (m ++ r)) := by rw [seg, hu, List.append_assoc]
      _ = segFrom p [] l ++ segFrom p (runSpan m) r := by
        rw [segFrom_append_of_getLast_long hp hmaxRun hl, segFrom_append_short hshort, List.nil_append]
      _ = segFrom p [] l ++ [.lit (runSpan m)] ++ segFrom p [] r := by
        rw [segFrom_of_head_long hp hmaxLit hne hr, List.append_assoc, List.singleton_append]

/-- BODY_FN_ref fails exactly where ENC_FAIL says so (R118). -/
theorem bodyFnRef_eq_none_iff {p : RefParams} {w : Width} {u : List CodeUnit} :
    bodyFnRef p w u = none ↔ p.encFail w u = true := by
  simp [bodyFnRef]

/-- Settles O20: on the empty input, as on any other, BODY_FN_ref fails where ENC_FAIL says so and nowhere else. -/
theorem referenceBodyMeetsEmptyLawIff : Obligations.ReferenceBodyMeetsEmptyLawIff := by
  intro p _
  refine ⟨forall_congr' fun w => ?_, fun w u => ⟨bodyFnRef_eq_none_iff.mpr, fun hok => ?_⟩⟩
  · rw [ne_eq, bodyFnRef_eq_none_iff, Bool.not_eq_true]
  · simp [bodyFnRef, hok]

end Sys2Proof.Machine

/-! The HDR family (41_header_encoder.md): acceptance, the byte and word layout of the two header forms, and completion
as one state equation. -/

namespace Sys2Proof.Machine

/-- The three HDR rows and their widths (R140). -/
abbrev hdrRows : List (Instr × Width) := [(.hdrB, .byte), (.hdrW, .word), (.hdrL, .longword)]

/-- The rows of HDR.B, HDR.W and HDR.L are acceptance with their width, unless BUSY (R140). -/
theorem exec_hdr_row {i : Instr} {w : Width} (h : (i, w) ∈ hdrRows) (s : State) :
    exec i s = .next (s.unlessBusy (hdrAccept w)) := by
  fin_cases h <;> rfl

theorem exec_hdr_row_idle {i : Instr} {w : Width} (h : (i, w) ∈ hdrRows) {s : State}
    (hb : s.status.busy = false) : exec i s = .next (hdrAccept w s) := by
  rw [exec_hdr_row h, State.unlessBusy_idle hb]

/-- Settles O1: the row and the CMD write are both HDR_ACCEPT. -/
theorem hdrAcceptLatchesAndHidesHeader : Obligations.HdrAcceptLatchesAndHidesHeader :=
  fun s hb _ w hrow => ⟨hdrAccept w s, exec_hdr_row_idle hrow hb, fun _ hc => exec_wrCmd_idle hb hc, rfl⟩

/-- Byte `n` of a word, counted from its low end, is its digit `n` to base 256 (R11). -/
theorem extractByte_eq_ofNat (s : Word) (n : Nat) :
    s.extractLsb' (8 * n) 8 = BitVec.ofNat 8 (s.toNat / 256 ^ n) := by
  rw [BitVec.extractLsb', Nat.shiftRight_eq_div_pow, Nat.pow_mul]

/-- The two low bytes of a word, high byte first, are the 2-byte encoding of its value (R145). -/
theorem bigEndian_two (s : Word) :
    Safety.bigEndian 2 s.toNat = [s.extractLsb' 8 8, s.extractLsb' 0 8] := by
  simp only [Safety.bigEndian, ← extractByte_eq_ofNat]

/-- The four bytes of a word, highest first, are the 4-byte encoding of its value (R144). -/
theorem bigEndian_four (s : Word) :
    Safety.bigEndian 4 s.toNat =
      [s.extractLsb' 24 8, s.extractLsb' 16 8, s.extractLsb' 8 8, s.extractLsb' 0 8] := by
  simp only [Safety.bigEndian, ← extractByte_eq_ofNat]

/-- Settles O3: each form of the header ends in the bytes of the size, which are its big-endian encoding. -/
theorem headerBytesLayout : Obligations.HeaderBytesLayout := by
  refine ⟨rfl, rfl, rfl, fun s w => ⟨fun hs => ?_, fun hl => ?_, hdrBytes_length s w⟩⟩
  · rw [hdrBytes_small hs, bigEndian_two]; rfl
  · rw [hdrBytes_large hl, bigEndian_four]; rfl

/-- The value of a register made of four bytes, the first the highest (R34). -/
theorem toNat_append_four (a b c d : Byte) :
    BitVec.toNat (w := 32) (a ++ b ++ c ++ d) =
      a.toNat * 2 ^ 24 + b.toNat * 2 ^ 16 + c.toNat * 2 ^ 8 + d.toNat := by
  refine (toNat_append_add (a ++ b ++ c) d).trans ?_
  rw [toNat_append_add, toNat_append_add]
  omega

/-- The value of a byte of a word (R34). -/
theorem toNat_extractByte (s : Word) (n : Nat) :
    (s.extractLsb' (8 * n) 8).toNat = s.toNat / 256 ^ n % 256 := by
  rw [extractByte_eq_ofNat, BitVec.toNat_ofNat]

/-- The size code stands in bits 23 to 16 of HDR_W0, a 2-byte size below it (R34, R145). -/
theorem append_smallHeader (c : Byte) (s : Word) :
    (0x00 : Byte) ++ c ++ s.extractLsb' 8 8 ++ s.extractLsb' 0 8 = (c ++ s.extractLsb' 0 16).setWidth 32 := by
  apply BitVec.eq_of_toNat_eq
  rw [toNat_append_four, toNat_extractByte s 1, toNat_extractByte s 0, BitVec.toNat_setWidth, toNat_append_add,
    BitVec.extractLsb'_toNat]
  simp only [BitVec.ofNat_eq_ofNat, BitVec.toNat_ofNat, Nat.shiftRight_zero]
  omega

/-- In the large form HDR_W0 holds the size code alone (R34, R144). -/
theorem append_largeHeader (c : Byte) :
    (0x00 : Byte) ++ c ++ (0x00 : Byte) ++ (0x00 : Byte) = c.setWidth 32 <<< 16 := by
  apply BitVec.eq_of_toNat_eq
  rw [toNat_append_four, BitVec.toNat_shiftLeft, BitVec.toNat_setWidth, Nat.shiftLeft_eq]
  simp only [BitVec.ofNat_eq_ofNat, BitVec.toNat_ofNat]
  omega

/-- A word is its four bytes, the highest first (R34). -/
theorem append_bytes (s : Word) :
    s.extractLsb' 24 8 ++ s.extractLsb' 16 8 ++ s.extractLsb' 8 8 ++ s.extractLsb' 0 8 = s := by
  apply BitVec.eq_of_toNat_eq
  rw [toNat_append_four, toNat_extractByte s 3, toNat_extractByte s 2, toNat_extractByte s 1, toNat_extractByte s 0]
  omega

/-- HDR_W0 and HDR_W1 of a stored small header (R34, R145). -/
theorem hdrWords_small {s : Word} (hs : s.toNat ≤ 65535) (w : Width) :
    hdrWord0 (headerStore (hdrBytes s w)) = (sizeCode w ++ s.extractLsb' 0 16).setWidth 32 ∧
      hdrWord1 (headerStore (hdrBytes s w)) = 0 := by
  rw [hdrBytes_small hs, headerStore_four, hdrWord0_mk, hdrWord1_mk]
  exact ⟨append_smallHeader _ s, rfl⟩

/-- HDR_W0 and HDR_W1 of a stored large header (R34, R144). -/
theorem hdrWords_large {s : Word} (hl : 65535 < s.toNat) (w : Width) :
    hdrWord0 (headerStore (hdrBytes s w)) = (sizeCode w).setWidth 32 <<< 16 ∧
      hdrWord1 (headerStore (hdrBytes s w)) = s := by
  rw [hdrBytes_large hl, headerStore_eight, hdrWord0_mk, hdrWord1_mk]
  exact ⟨append_largeHeader _, append_bytes s⟩

/-- HB holds the header bytes, then zeros (R147). -/
theorem toList_headerStore_hdrBytes (s : Word) (w : Width) :
    (headerStore (hdrBytes s w)).toList = hdrBytes s w ++ List.replicate (8 - (hdrBytes s w).length) 0 := by
  rcases Nat.lt_or_ge 65535 s.toNat with hl | hs
  · rw [hdrBytes_large hl]; rfl
  · rw [hdrBytes_small hs]; rfl

/-- HDR_COMPLETE on the core: the header is stored, the record is that of SUCCESS with HDR_VALID, nothing else changes
(R147). -/
theorem core_hdrComplete (s : State) :
    Safety.core (hdrComplete s) = Safety.core { s with
      hb := headerStore (hdrBytes s.latSize s.latW)
      hdrLen := (hdrBytes s.latSize s.latW).length
      latOp := .none
      status := { Safety.completed s.status .success 0 with hdrValid := true } } := rfl

/-- Settles O2: the engine's step is HDR_COMPLETE, whose header is in one of the two forms. -/
theorem hdrCompletionStoresHeader : Obligations.HdrCompletionStoresHeader := by
  intro s hop hn
  refine ⟨hdrComplete s, by rw [step_engine hn, engineStep_hdr hop], ⟨?_, rfl, hdrBytes_length _ _⟩, ?_, ?_, ?_⟩
  · exact toList_headerStore_hdrBytes s.latSize s.latW
  · exact fun hs => hdrWords_small hs s.latW
  · exact fun hl => hdrWords_large hl s.latW
  · exact core_hdrComplete s

/-- The header of an HDR command is that of SIZE at acceptance and the command's width (R148). -/
theorem header_engineStep_hdrAccept (w : Width) (s : State) :
    (engineStep (hdrAccept w s)).hb = headerStore (hdrBytes s.size w) ∧
      (engineStep (hdrAccept w s)).hdrLen = (hdrBytes s.size w).length := by
  rw [engineStep_hdr rfl]
  exact ⟨rfl, rfl⟩

/-- Settles O4: SIZE and the width give the header, and acceptance and completion touch nothing else that stays. -/
theorem headerDependsOnSizeAndWidthOnly : Obligations.HeaderDependsOnSizeAndWidthOnly := by
  intro i hi s s' t t' hb hb' hsize ht ht'
  obtain ⟨w, hrow⟩ : ∃ w, (i, w) ∈ hdrRows := by fin_cases hi <;> simp
  obtain rfl : hdrAccept w s = t := Host.Outcome.next.inj ((exec_hdr_row_idle hrow hb).symm.trans ht)
  obtain rfl : hdrAccept w s' = t' := Host.Outcome.next.inj ((exec_hdr_row_idle hrow hb').symm.trans ht')
  obtain ⟨hhb, hlen⟩ := header_engineStep_hdrAccept w s
  obtain ⟨hhb', hlen'⟩ := header_engineStep_hdrAccept w s'
  refine ⟨by rw [hhb, hhb', hsize], by rw [hlen, hlen', hsize], ?_⟩
  rw [engineStep_hdr rfl]
  exact core_hdrComplete (hdrAccept w s)

end Sys2Proof.Machine

/-! The control commands (42_control_commands.md): CLRIN, CLROUT and REWIND as state equations, SRST's word and the reset
sources, illegal words, and the CMD write while BUSY. -/

namespace Sys2Proof

/-- SRST is a legal command, and R77 gives it one word. -/
theorem decodeCommand_eq_srst_iff {c : Word} : decodeCommand c = .srst ↔ c = 0x0000000F := by
  refine ⟨fun h => ?_, fun h => h ▸ rfl⟩
  have hlegal : c ∈ legalCommandWords := by
    by_contra hc
    cases (decodeCommand_of_not_mem hc).symm.trans h
  fin_cases hlegal <;> cases h
  rfl

end Sys2Proof

namespace Sys2Proof.Machine

/-- The command rows that the BUSY test guards, which are all but SRST and ILLEGAL, with their commands (R166). -/
abbrev busyTestedRows : List (Instr × Command) :=
  [(.hdrB, .hdr .byte), (.hdrW, .hdr .word), (.hdrL, .hdr .longword),
   (.bodyB, .body .byte), (.bodyW, .body .word), (.bodyL, .body .longword),
   (.clrIn, .clrIn), (.clrOut, .clrOut), (.rewind, .rewind)]

theorem exec_busyTested_row {i : Instr} {c : Command} (h : (i, c) ∈ busyTestedRows) (s : State) :
    exec i s = .next (s.unlessBusy (perform c)) := by
  fin_cases h <;> rfl

/-- Met with BUSY = 0, a command row performs its command (R181). -/
theorem exec_busyTested_row_idle {i : Instr} {c : Command} (h : (i, c) ∈ busyTestedRows) {s : State}
    (hb : s.status.busy = false) : exec i s = .next (perform c s) := by
  rw [exec_busyTested_row h, State.unlessBusy_idle hb]

/-- Met with BUSY = 1, a command row is a violation and no more (R166). -/
theorem exec_busyTested_row_busy {i : Instr} {c : Command} (h : (i, c) ∈ busyTestedRows) {s : State}
    (hb : s.status.busy = true) : exec i s = .next s.setBusyViol := by
  rw [exec_busyTested_row h, State.unlessBusy_busy hb]

/-- The ILLEGAL row is the CMD write of its word (R164, R181). -/
theorem exec_illegal (c : Word) (s : State) : exec (.illegal c) s = exec (.wrCmd c) s := rfl

/-- A CMD write of any word but SRST's, met with BUSY = 1, is a violation and no more (R166). -/
theorem exec_wrCmd_busy {s : State} (hb : s.status.busy = true) {c : Word} (hc : c ≠ 0x0000000F) :
    exec (.wrCmd c) s = .next s.setBusyViol := by
  rw [← cmdWrite_busy_other hb hc]
  rfl

/-- The CMD write of SRST's word is RESET, whether BUSY is 0 or 1 (R163, R166). -/
theorem exec_wrCmd_srst (s : State) : exec (.wrCmd 0x0000000F) s = .next s.resetCore := by
  cases hb : s.status.busy with
  | false => exact exec_wrCmd_idle hb rfl
  | true =>
    rw [← cmdWrite_busy_srst hb]
    rfl

/-- RESET does to the core the same before a host event is taken off the sequence as after (R251). -/
theorem core_resetCore_takeEvent (rest : List HostEvent) (s : State) :
    Safety.core (takeEvent rest s).resetCore = Safety.core s.resetCore := rfl

/-- Settles O24: both reset sources are RESET, whatever BUSY is; the reset input only leaves the host's sequence first. -/
theorem resetSourcesGiveResetState : Obligations.ResetSourcesGiveResetState := by
  refine ⟨fun c => decodeCommand_eq_srst_iff, fun s => ?_, fun s u hu => ?_⟩
  · exact ⟨s.resetCore, rfl, exec_wrCmd_srst s, registers_resetCore s⟩
  · obtain ⟨rest, -, rfl, -⟩ := nextTurn_rst hu
    exact ⟨_, s.resetCore, step_rst hu, rfl, registers_resetCore _, core_resetCore_takeEvent rest s⟩

/-- With no command in flight, the completion primitive writes STATUS alone (R224). -/
theorem complete_of_latOp_none {s : State} (h : s.latOp = .none) (r : Result) (d : BitVec 4) :
    s.complete r d = { s with status := Safety.completed s.status r d } := by
  rw [State.complete, ← h]
  rfl

/-- Settles O25: DECODE_CMD names the DETAIL, and the row is the completion primitive. -/
theorem illegalWordChangesOnlyStatus : Obligations.IllegalWordChangesOnlyStatus := by
  intro s c d hb hd
  refine ⟨decodeCmd_illegal hd, s.complete .illegal d, ?_, rfl, fun hl => complete_of_latOp_none hl .illegal d⟩
  rw [exec_illegal]
  exact exec_wrCmd_idle hb hd

/-- Settles O26, by SRST's word, any other word, the rows that the BUSY test guards, and the ILLEGAL row, whose word is not
SRST's. -/
theorem busyCommandIsOnlyAViolation : Obligations.BusyCommandIsOnlyAViolation := by
  intro s hb
  refine ⟨⟨s.resetCore, exec_wrCmd_srst s, registers_resetCore s⟩, fun c hc => exec_wrCmd_busy hb hc,
    fun i hi => ?_, fun c hc => ?_⟩
  · obtain ⟨c, hrow⟩ : ∃ c, (i, c) ∈ busyTestedRows := by fin_cases hi <;> simp
    exact exec_busyTested_row_busy hrow hb
  · have hne : c ≠ 0x0000000F := by
      rintro rfl
      exact Instr.wf_illegal.mp hc (by decide)
    rw [exec_illegal]
    exact exec_wrCmd_busy hb hne

/-- Settles O21: CLRIN empties the count and completes. -/
theorem clrInEmptiesInput : Obligations.ClrInEmptiesInput :=
  ⟨rfl, fun _ hb => exec_busyTested_row_idle (c := .clrIn) (by simp) hb⟩

/-- An OUT_DATA read that finds no byte sets OUT_UNF and returns 0 (R191). -/
theorem exec_rdOutData_underrun {s : State} (h : s.status.outValid = false ∨ s.outLen ≤ s.outPtr) :
    exec .rdOutData s = .next (s.setOutUnf.returnRead 0) := by
  rw [← readOutData_underrun h]
  rfl

/-- An OUT_DATA read of a readable byte returns it and moves on (R191). -/
theorem exec_rdOutData_pop {s : State} (h : s.status.outValid = true) (hp : s.outPtr < s.outLen) :
    exec .rdOutData s = .next { s with
      outPtr := s.outPtr + 1, reads := byteWord (Memory.read s.obuf s.outPtr) :: s.reads } := by
  rw [← readOutData_pop h hp]
  rfl

/-- Settles O22: CLROUT is OUT_CLEAR and completion, after which a read underruns. -/
theorem clrOutDiscardsBody : Obligations.ClrOutDiscardsBody := by
  refine ⟨rfl, fun s hb => ⟨clearOutput s, ?_, fun _ => rfl, rfl, ?_⟩⟩
  · exact exec_busyTested_row_idle (c := .clrOut) (by simp) hb
  · exact exec_rdOutData_underrun (.inl rfl)

/-- Settles O23: REWIND moves the pointer to the first byte, which a read then pops. -/
theorem rewindRestartsReading : Obligations.RewindRestartsReading := by
  refine ⟨rfl, fun s hb => ⟨rewindOutput s, ?_, rfl, fun hv hlen => ?_⟩⟩
  · exact exec_busyTested_row_idle (c := .rewind) (by simp) hb
  · exact exec_rdOutData_pop (s := rewindOutput s) hv hlen

end Sys2Proof.Machine

/-! The register accesses (43_register_access.md): one equation per register for its read and its ignored write, the
accesses found under their descriptors, STATUS as a sum of its fields, and runs of pushes and of reads of the body. -/

namespace Sys2Proof

/-- The descriptor of a read is the register's offset (R71). -/
theorem accessOfDescriptor_offset (r : Reg) (data : Word) :
    accessOfDescriptor (BitVec.ofNat 7 r.offset) data = .read r.offset 4 := by
  cases r <;> rfl

/-- The descriptor of a write has DIR above the register's offset (R71). -/
theorem accessOfDescriptor_dir_offset (r : Reg) (data : Word) :
    accessOfDescriptor (BitVec.ofNat 7 (64 + r.offset)) data = .write r.offset 4 data := by
  cases r <;> rfl

theorem Reg.offset_lt (r : Reg) : r.offset < 64 := by cases r <;> decide

/-- Under the descriptor of a register's read stands its read row (log entry 9). -/
theorem decodeTableWord_read (r : Reg) : decodeTableWord 8 r.offset = some r.readInstr := by
  have hlt : r.offset < 2 ^ 7 := Nat.lt_trans r.offset_lt (by decide)
  have henc : encodedOfTableWord 8 r.offset = some (readOf r) := by
    simp only [encodedOfTableWord, if_pos hlt, accessOfDescriptor_offset, readOf]
  simp [decodeTableWord, henc, decode_readOf, Except.toOption]

/-- A write's descriptor with the data word above it stands for the write (R82, log entry 9). -/
theorem encodedOfTableWord_write (r : Reg) (data : Word) :
    encodedOfTableWord 40 (64 + r.offset + 256 * data.toNat) = some (writeOf r data) := by
  have hoff := r.offset_lt
  have hdata := data.isLt
  have hdesc : BitVec.ofNat 7 (64 + r.offset + 256 * data.toNat) = BitVec.ofNat 7 (64 + r.offset) := by
    apply BitVec.eq_of_toNat_eq
    simp only [BitVec.toNat_ofNat]
    omega
  have hword : BitVec.ofNat 32 ((64 + r.offset + 256 * data.toNat) / 2 ^ 8) = data := by
    apply BitVec.eq_of_toNat_eq
    simp only [BitVec.toNat_ofNat]
    omega
  simp only [encodedOfTableWord, hdesc, hword, accessOfDescriptor_dir_offset, writeOf]
  exact if_pos (by omega)

/-- Under the descriptor of a register's write, with its data word, stands its write row (log entry 9). -/
theorem decodeTableWord_write (r : Reg) (data : Word) :
    decodeTableWord 40 (64 + r.offset + 256 * data.toNat) = some (r.writeInstr data) := by
  simp [decodeTableWord, encodedOfTableWord_write, decode_writeOf, Except.toOption]

end Sys2Proof

namespace Sys2Proof.Machine

/-! The CMD write and the command rows (R181). -/

/-- The CMD write of any word but SRST's is its decoded command behind the BUSY test (R166, R181). -/
theorem cmdWrite_eq_unlessBusy {c : Word} (hc : c ≠ 0x0000000F) (s : State) :
    cmdWrite c s = s.unlessBusy (perform (decodeCmd c)) := by
  cases hb : s.status.busy with
  | false => rw [cmdWrite_idle hb, State.unlessBusy_idle hb]
  | true => rw [cmdWrite_busy_other hb hc, State.unlessBusy_busy hb]

/-- The legal words but SRST's are those of the rows that the BUSY test guards (R77, R166). -/
theorem decodeCommand_mem_busyTestedRows {c : Word} (hc : c ∈ legalCommandWords) :
    c ≠ 0x0000000F → (decodeCommand c, decodeCmd c) ∈ busyTestedRows := by
  fin_cases hc <;> decide

/-- Settles O27, by SRST's word, the other legal words, whose rows the BUSY test guards, and the illegal words, whose row
is the CMD write itself. -/
theorem cmdWriteIsTheDecodedCommand : Obligations.CmdWriteIsTheDecodedCommand := by
  intro c s
  refine ⟨cmdWrite c s, rfl, ?_⟩
  by_cases hsrst : c = 0x0000000F
  · subst hsrst
    exact (exec_wrCmd_srst s).symm
  · by_cases hlegal : c ∈ legalCommandWords
    · rw [exec_busyTested_row (decodeCommand_mem_busyTestedRows hlegal hsrst), cmdWrite_eq_unlessBusy hsrst]
    · rw [decodeCommand_of_not_mem hlegal]
      rfl

/-! Reads without a side effect (R182 to R199). -/

/-- The eleven registers whose read is a register's value alone, each with that value (R182, R185, R188, R189, R192 to
R198). -/
abbrev plainReads (s : State) : List (Reg × Word) :=
  [(.cmd, 0), (.size, s.size), (.inData, 0), (.inLen, countWord s.inLen), (.outLen, countWord s.outLen),
   (.outPtr, countWord s.outPtr), (.hdrLen, countWord s.hdrLen), (.hdrW0, hdrWord0 s.hb), (.hdrW1, hdrWord1 s.hb),
   (.capIn, countWord Config.ibufCap), (.capOut, countWord Config.obufCap)]

theorem exec_plainRead {r : Reg} {v : Word} {s : State} (h : (r, v) ∈ plainReads s) :
    exec r.readInstr s = .next { s with reads := v :: s.reads } := by
  fin_cases h <;> rfl

/-- Settles O34: each row listed is a register's read row, under its descriptor. -/
theorem readsReturnTheirRegister : Obligations.ReadsReturnTheirRegister := by
  intro s d i v h
  have hrow : (d, i, v) ∈ (plainReads s).map fun p => (p.1.offset, p.1.readInstr, p.2) := h
  obtain ⟨⟨r, _⟩, hr, heq⟩ := List.mem_map.mp hrow
  cases heq
  exact ⟨decodeTableWord_read r, exec_plainRead hr⟩

/-! Writes that are ignored (R190, R199). -/

/-- The registers whose write the interface ignores: the nine read-only ones (R190) and the unmapped offsets (R199). -/
abbrev ignoredWriteRegs : List Reg :=
  [.inLen, .outData, .outLen, .outPtr, .hdrLen, .hdrW0, .hdrW1, .capIn, .capOut, .unmapped34, .unmapped38, .unmapped3C]

theorem exec_writeInstr_ignored {r : Reg} (hr : r ∈ ignoredWriteRegs) (data : Word) (s : State) :
    exec (r.writeInstr data) s = .next s := by
  fin_cases hr <;> rfl

/-- An ignored write is found under its descriptor and data word, and answers the very state. -/
theorem ignoredWrite_of_mem_map {regs : List Reg} (hregs : regs ⊆ ignoredWriteRegs) {data : Word} {d : Nat} {i : Instr}
    (h : (d, i) ∈ regs.map fun r => (64 + r.offset, r.writeInstr data)) (s : State) :
    decodeTableWord 40 (d + 256 * data.toNat) = some i ∧ exec i s = .next s := by
  obtain ⟨r, hr, heq⟩ := List.mem_map.mp h
  cases heq
  exact ⟨decodeTableWord_write r data, exec_writeInstr_ignored (hregs hr) data s⟩

/-- Settles O36: the reads return 0 and the writes are ignored ones. -/
theorem unmappedOffsetsReadZero : Obligations.UnmappedOffsetsReadZero := by
  refine fun s data => ⟨fun d i h => ?_, fun d i h => ?_⟩
  · have hrow : (d, i) ∈ List.map (fun r : Reg => (r.offset, r.readInstr)) [.unmapped34, .unmapped38, .unmapped3C] := h
    obtain ⟨r, hr, heq⟩ := List.mem_map.mp hrow
    cases heq
    refine ⟨decodeTableWord_read r, ?_⟩
    fin_cases hr <;> rfl
  · exact ignoredWrite_of_mem_map (regs := [.unmapped34, .unmapped38, .unmapped3C]) (by decide) h s

/-- Settles O37: the nine registers' writes are ignored ones. -/
theorem readOnlyWritesAreIgnored : Obligations.ReadOnlyWritesAreIgnored := by
  intro s data d i h
  exact ignoredWrite_of_mem_map
    (regs := [.inLen, .outData, .outLen, .outPtr, .hdrLen, .hdrW0, .hdrW1, .capIn, .capOut]) (by decide) h s

/-! STATUS (R183, R184). -/

/-- A word has a value, and all of it lies below bit `n`. -/
def HoldsBelow (x : Word) (v n : Nat) : Prop := x.toNat = v ∧ v < 2 ^ n

/-- A field placed at or above every bit in use adds its value, weighted by its place. -/
theorem HoldsBelow.field {x : Word} {v k w : Nat} (h : HoldsBelow x v k) (n : Nat) (y : BitVec w)
    (hk : k ≤ n := by decide) (hn : n + w ≤ 32 := by decide) :
    HoldsBelow (x ||| y.setWidth 32 <<< n) (v + 2 ^ n * y.toNat) (n + w) := by
  obtain ⟨rfl, hv⟩ := h
  have hx : x.toNat < 2 ^ n := Nat.lt_of_lt_of_le hv (Nat.pow_le_pow_right (by decide) hk)
  have hsum : x.toNat + 2 ^ n * y.toNat < 2 ^ (n + w) := by
    calc x.toNat + 2 ^ n * y.toNat < 2 ^ n * (y.toNat + 1) := by rw [Nat.mul_succ]; omega
      _ ≤ 2 ^ n * 2 ^ w := Nat.mul_le_mul_left _ y.isLt
      _ = 2 ^ (n + w) := (Nat.pow_add 2 n w).symm
  have hword : 2 ^ (n + w) ≤ 2 ^ 32 := Nat.pow_le_pow_right (by decide) hn
  have hy : y.toNat < 2 ^ 32 := Nat.lt_of_lt_of_le y.isLt (Nat.pow_le_pow_right (by decide) (by omega))
  have hshift : (y.setWidth 32 <<< n).toNat = 2 ^ n * y.toNat := by
    rw [BitVec.toNat_shiftLeft, BitVec.toNat_setWidth, Nat.mod_eq_of_lt hy, Nat.shiftLeft_eq, Nat.mul_comm]
    exact Nat.mod_eq_of_lt (by omega)
  refine ⟨?_, hsum⟩
  rw [BitVec.toNat_or, hshift, Nat.or_comm, ← Nat.two_pow_add_eq_or_of_lt hx, Nat.add_comm]

/-- A flag is a field of one bit. -/
theorem HoldsBelow.flag {x : Word} {v k : Nat} (h : HoldsBelow x v k) (n : Nat) (b : Bool)
    (hk : k ≤ n := by decide) (hn : n + 1 ≤ 32 := by decide) :
    HoldsBelow (x ||| flagAt b n) (v + 2 ^ n * b.toNat) (n + 1) := by
  have hfield := h.field n (BitVec.ofBool b) hk hn
  rw [BitVec.toNat_ofBool] at hfield
  exact hfield

theorem holdsBelow_flagAt_zero (b : Bool) : HoldsBelow (flagAt b 0) b.toNat 1 := by
  cases b <;> exact ⟨rfl, by decide⟩

/-- The STATUS word has its fields at their places and nothing else set (R25, R183). -/
theorem Status.toWord_holdsBelow (st : Status) :
    HoldsBelow st.toWord (st.busy.toNat + 2 ^ 1 * st.done.toNat + 2 ^ 2 * st.ok.toNat
      + 2 ^ 4 * st.result.code.toNat + 2 ^ 8 * st.detail.toNat
      + 2 ^ 16 * st.hdrValid.toNat + 2 ^ 17 * st.outValid.toNat
      + 2 ^ 24 * st.inOvf.toNat + 2 ^ 25 * st.outUnf.toNat + 2 ^ 26 * st.busyViol.toNat) 27 :=
  holdsBelow_flagAt_zero st.busy |>.flag 1 st.done |>.flag 2 st.ok
    |>.field 4 st.result.code |>.field 8 st.detail
    |>.flag 16 st.hdrValid |>.flag 17 st.outValid
    |>.flag 24 st.inOvf |>.flag 25 st.outUnf |>.flag 26 st.busyViol

/-- Settles O35. -/
theorem statusReadComposesFields : Obligations.StatusReadComposesFields :=
  ⟨decodeTableWord_read .status, fun s =>
    ⟨s.status.toWord, rfl, s.status.toWord_holdsBelow.1⟩⟩

/-- A flag with its W1C bit, by arithmetic on the data word (R184). -/
theorem and_not_getLsbD (b : Bool) (data : Word) (n : Nat) :
    (b && !data.getLsbD n) = if data.toNat / 2 ^ n % 2 = 1 then false else b := by
  rw [← BitVec.testBit_toNat, Nat.testBit_eq_decide_div_mod_eq]
  split <;> simp [*]

/-- Settles O38: the write is W1C on the three sticky flags, with no BUSY test. -/
theorem statusWriteClearsStickyBits : Obligations.StatusWriteClearsStickyBits := by
  intro s data
  simp only [← and_not_getLsbD]
  rfl

/-! SIZE and IN_DATA writes (R186, R187). -/

theorem exec_wrSize (data : Word) (s : State) :
    exec (.wrSize data) s = .next (s.unlessBusy fun t => { t with size := data }) := rfl

/-- Settles O39, by the BUSY test. -/
theorem sizeWriteSetsSizeUnlessBusy : Obligations.SizeWriteSetsSizeUnlessBusy := by
  refine fun s data => ⟨fun hb => ?_, fun hb => ?_⟩
  · rw [exec_wrSize, State.unlessBusy_idle hb]
  · rw [exec_wrSize, State.unlessBusy_busy hb]
    rfl

theorem exec_wrInData (data : Word) (s : State) :
    exec (.wrInData data) s = .next (s.unlessBusy (pushByteWith Config.ibufCap (byteOperand data))) := rfl

/-- An IN_DATA write with BUSY = 0 and room is a push at IN_LEN (R187). -/
theorem exec_wrInData_room {s : State} (hb : s.status.busy = false) (hroom : s.inLen ≠ Config.ibufCap) (data : Word) :
    exec (.wrInData data) s = .next { s with
      ibuf := Memory.write s.ibuf s.inLen (byteOperand data), inLen := s.inLen + 1 } := by
  rw [exec_wrInData, State.unlessBusy_idle hb, pushByteWith_room hroom]

theorem toNat_byteOperand (data : Word) : (byteOperand data).toNat = data.toNat % 256 := by
  rw [byteOperand, BitVec.extractLsb'_toNat, Nat.shiftRight_zero]

/-- Settles O40, by the BUSY test and the room left. -/
theorem inDataWriteAppendsByte : Obligations.InDataWriteAppendsByte := by
  refine fun s data hwf => ⟨fun hb => ?_, fun hb hfull => ?_, fun hb hroom => ?_⟩
  · rw [exec_wrInData, State.unlessBusy_busy hb]
    rfl
  · rw [exec_wrInData, State.unlessBusy_idle hb, pushByteWith_full hfull]
    rfl
  · refine ⟨_, exec_wrInData_room hb hroom data, rfl, ?_, fun a ha => ?_, fun _ => rfl⟩
    · rw [← toNat_byteOperand, Memory.read_write_same hwf]
    · exact Memory.read_write_other hwf ha _

/-- Settles O41, by whether there is a byte to pop. -/
theorem outDataReadPopsOrUnderruns : Obligations.OutDataReadPopsOrUnderruns :=
  fun _ => ⟨exec_rdOutData_pop, exec_rdOutData_underrun⟩

/-! Runs of the host's accesses with no command in flight (R256, R258). -/

theorem engineReady_of_latOp_none {s : State} (hl : s.latOp = .none) : engineReady s = false := by
  simp [engineReady, hl]

/-- With no command in flight, a pending register read is the next step. -/
theorem step_rd {s : State} {r : Reg} {rest : List HostEvent} (hbus : s.bus = rd r :: rest) (hl : s.latOp = .none) :
    step s = exec r.readInstr (takeEvent rest s) :=
  step_host (nextTurn_issue hbus (engineReady_of_latOp_none hl) (decode_readOf r))

/-- With no command in flight, a pending register write is the next step. -/
theorem step_wr {s : State} {r : Reg} {data : Word} {rest : List HostEvent} (hbus : s.bus = wr r data :: rest)
    (hl : s.latOp = .none) : step s = exec (r.writeInstr data) (takeEvent rest s) :=
  step_host (nextTurn_issue hbus (engineReady_of_latOp_none hl) (decode_writeOf r data))

/-- The state after `n` pops, with the pending events taken. -/
def afterPops (n : Nat) (rest : List HostEvent) (s : State) : State :=
  { s with
    bus := rest
    engineWait := s.engineWait - n
    outPtr := s.outPtr + n
    reads := ((Memory.readList s.obuf s.outPtr n).map byteWord).reverse ++ s.reads }

theorem afterPops_zero {rest : List HostEvent} {s : State} (hbus : s.bus = rest) : afterPops 0 rest s = s := by
  subst hbus
  rfl

/-- The first of several pops, and then the others. -/
theorem afterPops_succ (n : Nat) (mid rest : List HostEvent) (s : State) :
    afterPops n rest (afterPops 1 mid s) = afterPops (n + 1) rest s := by
  simp [afterPops, Memory.readList, Nat.sub_sub, Nat.add_assoc, Nat.add_comm 1 n]

/-- One pending OUT_DATA read of a readable byte is one pop (R191). -/
theorem step_rd_outData {s : State} {rest : List HostEvent} (hbus : s.bus = rd .outData :: rest) (hl : s.latOp = .none)
    (hv : s.status.outValid = true) (hp : s.outPtr < s.outLen) : step s = .next (afterPops 1 rest s) :=
  (step_rd hbus hl).trans (exec_rdOutData_pop (s := takeEvent rest s) hv hp)

/-- As many reads of OUT_DATA as there are bytes left pop those bytes in order (R191, R258). -/
theorem run_rd_outData {n : Nat} {rest : List HostEvent} {s : State}
    (hbus : s.bus = List.replicate n (rd .outData) ++ rest) (hl : s.latOp = .none) (hv : s.status.outValid = true)
    (hn : s.outPtr + n ≤ s.outLen) : Host.Core.run Sys2Proof.core n s = .next (afterPops n rest s) := by
  induction n generalizing s with
  | zero => exact congrArg Host.Outcome.next (afterPops_zero hbus).symm
  | succ n ih =>
    have hstep := step_rd_outData hbus hl hv (by omega)
    have hrest : (s.outPtr + 1) + n ≤ s.outLen := by omega
    calc Host.Core.run Sys2Proof.core (n + 1) s
        = Host.Core.run Sys2Proof.core n (afterPops 1 (List.replicate n (rd .outData) ++ rest) s) := run_succ hstep n
      _ = .next (afterPops n rest (afterPops 1 _ s)) := ih rfl hl hv hrest
      _ = .next (afterPops (n + 1) rest s) := congrArg _ (afterPops_succ n _ rest s)

/-- Settles O56: the pops of the whole body, after which OUT_PTR = OUT_LEN and a read underruns. -/
theorem readoutReturnsTheBody : Obligations.ReadoutReturnsTheBody := by
  intro s hl hv hp
  have hrun := run_rd_outData (s := { s with bus := List.replicate s.outLen (rd .outData) })
    (List.append_nil _).symm hl hv (by simp [hp])
  have hptr : s.outPtr + s.outLen = s.outLen := by simp [hp]
  refine ⟨_, hrun, ?_, hptr, rfl, exec_rdOutData_underrun (.inr hptr.ge)⟩
  simp [afterPops, Safety.bodyBytes, hp]

/-- The state after a list of bytes is pushed, with the pending events taken. -/
def afterPushes (bs : List Byte) (rest : List HostEvent) (s : State) : State :=
  { s with
    bus := rest
    engineWait := s.engineWait - bs.length
    ibuf := Memory.writeList s.ibuf s.inLen bs
    inLen := s.inLen + bs.length }

theorem afterPushes_nil {rest : List HostEvent} {s : State} (hbus : s.bus = rest) : afterPushes [] rest s = s := by
  subst hbus
  rfl

/-- The first of several pushes, and then the others. -/
theorem afterPushes_cons (b : Byte) (bs : List Byte) (mid rest : List HostEvent) (s : State) :
    afterPushes bs rest (afterPushes [b] mid s) = afterPushes (b :: bs) rest s := by
  simp [afterPushes, Memory.writeList, Nat.sub_sub, Nat.add_assoc, Nat.add_comm 1]

theorem byteOperand_byteWord (b : Byte) : byteOperand (byteWord b) = b := by
  apply BitVec.eq_of_toNat_eq
  have hb := b.isLt
  rw [toNat_byteOperand, byteWord, BitVec.toNat_setWidth]
  omega

/-- One pending IN_DATA write of a byte that fits is one push (R187). -/
theorem step_wr_inData {s : State} {b : Byte} {rest : List HostEvent} (hbus : s.bus = wr .inData (byteWord b) :: rest)
    (hl : s.latOp = .none) (hb : s.status.busy = false) (hroom : s.inLen ≠ Config.ibufCap) :
    step s = .next (afterPushes [b] rest s) := by
  have hexec := exec_wrInData_room (s := takeEvent rest s) hb hroom (byteWord b)
  rw [byteOperand_byteWord] at hexec
  exact (step_wr hbus hl).trans hexec

/-- Bytes that fit are pushed one a step (R83, R256). -/
theorem run_pushBytes {bs : List Byte} {rest : List HostEvent} {s : State} (hbus : s.bus = pushBytes bs ++ rest)
    (hl : s.latOp = .none) (hb : s.status.busy = false) (hfit : s.inLen + bs.length ≤ Config.ibufCap) :
    Host.Core.run Sys2Proof.core bs.length s = .next (afterPushes bs rest s) := by
  induction bs generalizing s with
  | nil => exact congrArg Host.Outcome.next (afterPushes_nil hbus).symm
  | cons b bs ih =>
    rw [List.length_cons] at hfit
    have hstep := step_wr_inData hbus hl hb (by omega)
    have hrest : (s.inLen + 1) + bs.length ≤ Config.ibufCap := by omega
    calc Host.Core.run Sys2Proof.core (bs.length + 1) s
        = Host.Core.run Sys2Proof.core bs.length (afterPushes [b] (pushBytes bs ++ rest) s) := run_succ hstep bs.length
      _ = .next (afterPushes bs rest (afterPushes [b] _ s)) := ih rfl hl hb hrest
      _ = .next (afterPushes (b :: bs) rest s) := congrArg _ (afterPushes_cons b bs _ rest s)

/-- A longer read is a read and the read of what follows it. -/
theorem Memory.readList_add (m : Memory) (i a b : Nat) :
    Memory.readList m i (a + b) = Memory.readList m i a ++ Memory.readList m (i + a) b := by
  induction b with
  | zero => simp [Memory.readList]
  | succ b ih => rw [← Nat.add_assoc, Memory.readList_succ, Memory.readList_succ, ih, List.append_assoc, Nat.add_assoc]

/-- The input after the pushes is the old one followed by the bytes (R187, R256). -/
theorem rawInput_afterPushes {s : State} (hwf : Memory.wf s.ibuf) (bs : List Byte) (rest : List HostEvent) :
    rawInput (afterPushes bs rest s) = rawInput s ++ bs := by
  have hold : Memory.readList (Memory.writeList s.ibuf s.inLen bs) 0 s.inLen = Memory.readList s.ibuf 0 s.inLen :=
    Memory.readList_congr fun j _ hj => Memory.read_writeList_outside hwf (.inl (by omega))
  simp only [rawInput, afterPushes, Memory.readList_add, hold, Nat.zero_add, Memory.readList_writeList hwf]

/-- Settles O57: the run of the pushes, which writes IBUF and IN_LEN alone. -/
theorem pushedBytesAreAppended : Obligations.PushedBytesAreAppended := by
  intro s bs hl hb hwf hfit
  have hrun := run_pushBytes (s := { s with bus := pushBytes bs }) (List.append_nil _).symm hl hb hfit
  exact ⟨_, hrun, rawInput_afterPushes (s := { s with bus := pushBytes bs }) hwf bs [], rfl⟩

end Sys2Proof.Machine

/-! The sticky flags and the order of STATUS accesses against the engine's step (60_exceptions.md): what clears a flag, and
the completion of a command as an operation that commutes with the clearing of flags. -/

namespace Sys2Proof.Machine

/-! What clears a sticky flag (R226). -/

/-- No sticky flag that is 1 in `s` is 0 in `t`. -/
structure KeepsSticky (s t : State) : Prop where
  inOvf : s.status.inOvf = true → t.status.inOvf = true
  outUnf : s.status.outUnf = true → t.status.outUnf = true
  busyViol : s.status.busyViol = true → t.status.busyViol = true

theorem KeepsSticky.of_eq {s t : State} (hi : t.status.inOvf = s.status.inOvf) (ho : t.status.outUnf = s.status.outUnf)
    (hb : t.status.busyViol = s.status.busyViol) : KeepsSticky s t :=
  ⟨hi.trans, ho.trans, hb.trans⟩

theorem engineStep_keepsSticky (s : State) : KeepsSticky s (engineStep s) := by
  obtain ⟨-, -, -, -, -, -, -, -, -, hi, ho, hb⟩ := engineStep_frame s
  exact .of_eq hi ho hb

/-- A command keeps the sticky flags, but for SRST, which resets every register. -/
theorem perform_keepsSticky (c : Command) (s : State) :
    KeepsSticky s (perform c s) ∨ Safety.registers (perform c s) = State.reset := by
  cases c with
  | srst => exact .inr (registers_resetCore s)
  | hdr | body | clrIn | clrOut | rewind | illegal => exact .inl (.of_eq rfl rfl rfl)

/-- An instruction keeps or sets the sticky flags, is a STATUS write, or resets every register (R226). -/
theorem effect_keepsSticky {i : Instr} {s t : State} (he : Effect s i t) :
    KeepsSticky s t ∨ (∃ data, i = .wrStatus data) ∨ Safety.registers t = State.reset := by
  cases he with
  | sticky data => exact .inr (.inl ⟨data, rfl⟩)
  | reset => exact .inr (.inr (registers_resetCore s))
  | command _ c => exact (perform_keepsSticky c s).imp_right .inr
  | violation => exact .inl ⟨id, id, fun _ => rfl⟩
  | overflow => exact .inl ⟨fun _ => rfl, id, id⟩
  | underrun => exact .inl ⟨id, fun _ => rfl, id⟩
  | read | keep | size | push | pop => exact .inl (.of_eq rfl rfl rfl)

/-- A step keeps or sets the sticky flags, performs a STATUS write, or leaves the reset registers (R226). -/
theorem step_keepsSticky {s t : State} (hstep : step s = .next t) :
    KeepsSticky s t ∨ (∃ data u, nextTurn s = .host (.wrStatus data) u) ∨ Safety.registers t = State.reset := by
  rcases step_cases hstep with ⟨-, rfl⟩ | ⟨-, rfl⟩ | ⟨u, -, rfl⟩ | ⟨i, u, hu, hexec⟩
  · exact .inl (engineStep_keepsSticky s)
  · exact .inl (.of_eq rfl rfl rfl)
  · exact .inr (.inr (registers_resetCore u))
  · obtain ⟨e, rest, -, -, rfl, -⟩ := nextTurn_host hu
    rcases effect_keepsSticky (exec_effect hexec) with ⟨hi, ho, hb⟩ | ⟨data, rfl⟩ | hreset
    · exact .inl ⟨hi, ho, hb⟩
    · exact .inr (.inl ⟨data, _, hu⟩)
    · exact .inr (.inr hreset)

/-- Settles O52: a cleared flag excludes the first of the three things that a step can do to the flags. -/
theorem stickyFlagsAreClearedOnlyByHost : Obligations.StickyFlagsAreClearedOnlyByHost := by
  intro s t hstep hcleared
  refine (step_keepsSticky hstep).resolve_left fun ⟨hi, ho, hb⟩ => ?_
  rcases hcleared with ⟨hs, ht⟩ | ⟨hs, ht⟩ | ⟨hs, ht⟩
  · exact Bool.noConfusion (ht.symm.trans (hi hs))
  · exact Bool.noConfusion (ht.symm.trans (ho hs))
  · exact Bool.noConfusion (ht.symm.trans (hb hs))

/-! STATUS accesses around the engine's step (R229). -/

/-- The host event is a STATUS read or a STATUS write. -/
def IsStatusAccess (e : HostEvent) : Prop := e = rd .status ∨ ∃ data, e = wr .status data

/-- The W1C bits of a STATUS access: a write's data word, and none for a read. -/
def w1cBits : HostEvent → Word
  | .issue (.access (.write _ _ data)) => data
  | _ => 0

/-- The core after a list of STATUS accesses: a read clears nothing, a write clears the flags of its W1C bits. -/
def afterStatusAccesses (es : List HostEvent) (c : CoreState) : CoreState :=
  { c with status := es.foldl (fun st e => st.clearSticky (w1cBits e)) c.status }

/-- The first of several accesses, and then the others. -/
theorem afterStatusAccesses_cons (e : HostEvent) (es : List HostEvent) (c : CoreState) :
    afterStatusAccesses (e :: es) c = afterStatusAccesses es (afterStatusAccesses [e] c) := rfl

theorem Status.clearSticky_zero (st : Status) : st.clearSticky 0 = st := by simp [Status.clearSticky]

/-- A pending STATUS access on the host's turn is performed, and acts on the core by its W1C bits alone. -/
theorem step_statusAccess {s : State} {e : HostEvent} {rest : List HostEvent} (he : IsStatusAccess e)
    (hbus : s.bus = e :: rest) (hr : engineReady s = false) :
    ∃ t, step s = .next t ∧ t.bus = rest ∧ t.toCoreState = afterStatusAccesses [e] s.toCoreState := by
  rcases he with rfl | ⟨data, rfl⟩
  · refine ⟨_, step_host (nextTurn_issue hbus hr (decode_readOf .status)), rfl, ?_⟩
    have hsame : afterStatusAccesses [rd .status] s.toCoreState = s.toCoreState :=
      congrArg (fun st => { s.toCoreState with status := st }) (Status.clearSticky_zero s.status)
    exact hsame.symm
  · exact ⟨_, step_host (nextTurn_issue hbus hr (decode_writeOf .status data)), rfl, rfl⟩

/-- With no command in flight, the pending STATUS accesses are performed one a step. -/
theorem run_statusAccesses_idle {es : List HostEvent} {s : State} (hbus : s.bus = es) (hes : ∀ e ∈ es, IsStatusAccess e)
    (hl : s.latOp = .none) :
    ∃ t, Host.Core.run Sys2Proof.core es.length s = .next t ∧ t.bus = [] ∧
      t.toCoreState = afterStatusAccesses es s.toCoreState := by
  induction es generalizing s with
  | nil => exact ⟨s, rfl, hbus, rfl⟩
  | cons e es ih =>
    obtain ⟨he, hes⟩ := List.forall_mem_cons.mp hes
    obtain ⟨u, hstep, hu, hcore⟩ := step_statusAccess he hbus (engineReady_of_latOp_none hl)
    have hlu : u.latOp = .none := (congrArg CoreState.latOp hcore).trans hl
    obtain ⟨t, hrun, ht, hcore'⟩ := ih hu hes hlu
    exact ⟨t, (run_succ hstep _).trans hrun, ht, by rw [hcore', hcore, ← afterStatusAccesses_cons]⟩

/-- The engine's step acts on the core alone (R44). -/
theorem engineStep_congr {s u : State} (h : u.toCoreState = s.toCoreState) (hl : s.latOp ≠ .none) :
    (engineStep u).toCoreState = (engineStep s).toCoreState := by
  have hlu : u.latOp ≠ .none := by rwa [h]
  have hsame := (coreStep_engineStep hlu).symm.trans (h ▸ coreStep_engineStep hl)
  exact congrArg Prod.fst (Option.some.inj hsame)

/-- The engine's step and the clearing of sticky flags commute: a completion neither reads nor writes a flag, and a
clearing neither reads nor writes anything else (R224, R229). -/
theorem engineStep_clearSticky (s : State) (data : Word) :
    engineStep (s.clearSticky data) = (engineStep s).clearSticky data := by
  cases hl : s.latOp with
  | none => rw [engineStep_none hl, engineStep_none (s := s.clearSticky data) hl]
  | hdr =>
    rw [engineStep_hdr hl, engineStep_hdr (s := s.clearSticky data) hl]
    rfl
  | body =>
    rw [engineStep_body hl, engineStep_body (s := s.clearSticky data) hl]
    change bodyFinish (bodyOutcome Config.bodyFn Config.obufCap s.latW (rawInput s)) _ = _
    cases bodyOutcome Config.bodyFn Config.obufCap s.latW (rawInput s) <;> rfl

/-- A STATUS access before the engine's step leaves the core that the same access after it leaves (R229). -/
theorem engineStep_of_statusAccess {s u : State} {e : HostEvent} (hl : s.latOp ≠ .none)
    (h : u.toCoreState = afterStatusAccesses [e] s.toCoreState) :
    (engineStep u).toCoreState = afterStatusAccesses [e] (engineStep s).toCoreState :=
  calc (engineStep u).toCoreState
      = (engineStep (s.clearSticky (w1cBits e))).toCoreState := engineStep_congr h hl
    _ = afterStatusAccesses [e] (engineStep s).toCoreState := by rw [engineStep_clearSticky]; rfl

/-- A latched command whose delay has run out is completed before the next host event (R262). -/
theorem nextTurn_engine_of_ready {s : State} {e : HostEvent} {rest : List HostEvent} (hbus : s.bus = e :: rest)
    (hr : engineReady s = true) : nextTurn s = .engine := by
  simp [nextTurn, hbus, hr]

/-- On the engine's turn the run completes the command and then performs the pending STATUS accesses. -/
theorem run_statusAccesses_of_engine {es : List HostEvent} {s : State} (hbus : s.bus = es)
    (hes : ∀ e ∈ es, IsStatusAccess e) (hn : nextTurn s = .engine) :
    ∃ t, Host.Core.run Sys2Proof.core (es.length + 1) s = .next t ∧ t.bus = [] ∧
      t.toCoreState = afterStatusAccesses es (engineStep s).toCoreState := by
  have hbus' : (engineStep s).bus = es := (engineStep_frame s).1.trans hbus
  obtain ⟨t, hrun, ht⟩ := run_statusAccesses_idle hbus' hes (engineStep_latOp s)
  exact ⟨t, (run_succ (step_engine hn) _).trans hrun, ht⟩

/-- With a command in flight and STATUS accesses pending, the run that performs them all and the engine's step leaves the
core as if the engine had gone first, wherever among them it does go (R229, R262). -/
theorem run_statusAccesses_inFlight {es : List HostEvent} {s : State} (hbus : s.bus = es)
    (hes : ∀ e ∈ es, IsStatusAccess e) (hl : s.latOp ≠ .none) :
    ∃ t, Host.Core.run Sys2Proof.core (es.length + 1) s = .next t ∧ t.bus = [] ∧
      t.toCoreState = afterStatusAccesses es (engineStep s).toCoreState := by
  induction es generalizing s with
  | nil => exact run_statusAccesses_of_engine hbus hes (nextTurn_engine_of_bus_nil hbus hl)
  | cons e es ih =>
    cases hr : engineReady s with
    | true => exact run_statusAccesses_of_engine hbus hes (nextTurn_engine_of_ready hbus hr)
    | false =>
      obtain ⟨he, hes⟩ := List.forall_mem_cons.mp hes
      obtain ⟨u, hstep, hu, hcore⟩ := step_statusAccess he hbus hr
      have hlu : u.latOp ≠ .none := by rwa [hcore]
      obtain ⟨t, hrun, ht, hcore'⟩ := ih hu hes hlu
      refine ⟨t, (run_succ hstep _).trans hrun, ht, ?_⟩
      rw [hcore', engineStep_of_statusAccess hl hcore, ← afterStatusAccesses_cons]

/-- Settles O55: for every drawn delay, the one core state is that of the engine going first. -/
theorem statusTrafficIsOrderIndependent : Obligations.StatusTrafficIsOrderIndependent := by
  intro s hl hes
  refine ⟨(afterStatusAccesses s.bus (engineStep s).toCoreState).alone, engineStep_latOp s, fun wait => ?_⟩
  obtain ⟨t, hrun, hbus, hcore⟩ := run_statusAccesses_inFlight (s := { s with engineWait := wait }) rfl hes hl
  have hsame : (engineStep { s with engineWait := wait }).toCoreState = (engineStep s).toCoreState :=
    engineStep_congr rfl hl
  exact ⟨t, hrun, hbus, congrArg CoreState.alone (hcore.trans (congrArg _ hsame))⟩

end Sys2Proof.Machine

/-! The bounded completion of an accepted command (70_reset_and_hazards.md section 4): every host event performed before
the engine's step brings that step one event nearer, and none of them can put it off. -/

namespace Sys2Proof.Machine

/-- With a command in flight, it is the engine's turn, or a host event is pending that the delay lets come first (R262). -/
theorem nextTurn_inFlight {s : State} (hl : s.latOp ≠ .none) :
    nextTurn s = .engine ∨ ∃ e rest, s.bus = e :: rest ∧ engineReady s = false ∧ 0 < s.engineWait := by
  cases hbus : s.bus with
  | nil => exact .inl (nextTurn_engine_of_bus_nil hbus hl)
  | cons e rest =>
    cases hr : engineReady s with
    | true => exact .inl (nextTurn_engine_of_ready hbus hr)
    | false =>
      have hwait : 0 < s.engineWait := by simpa [engineReady, hl, Nat.pos_iff_ne_zero] using hr
      exact .inr ⟨e, rest, rfl, rfl, hwait⟩

/-- It is the reset input's turn when the engine is not ready and RST is the first event pending. -/
theorem nextTurn_rst_of_bus {s : State} {rest : List HostEvent} (hbus : s.bus = .rst :: rest)
    (hr : engineReady s = false) : nextTurn s = .rst (takeEvent rest s) := by
  simp [nextTurn, hbus, hr]

/-- An instruction met with BUSY = 1 leaves the host's sequence and the drawn delay alone: only an acceptance draws a new
delay, and none happens while BUSY (R166, R228). -/
theorem effect_schedule_busy {i : Instr} {s t : State} (he : Effect s i t) (hb : s.status.busy = true) :
    t.bus = s.bus ∧ t.engineWait = s.engineWait := by
  cases he with
  | command _ _ hidle => exact Bool.noConfusion (hidle.symm.trans hb)
  | _ => exact ⟨rfl, rfl⟩

/-- While BUSY, an admitted host event has a step, which takes the event off the host's sequence and counts it against
the drawn delay (R59, R262). -/
theorem step_admitted_busy {s : State} {e : HostEvent} {rest : List HostEvent} (hbus : s.bus = e :: rest)
    (hr : engineReady s = false) (he : Safety.admitted e = true) (hb : s.status.busy = true) :
    ∃ t, step s = .next t ∧ t.bus = rest ∧ t.engineWait = s.engineWait - 1 := by
  cases e with
  | rst => exact ⟨_, step_rst (nextTurn_rst_of_bus hbus hr), rfl, rfl⟩
  | issue enc =>
    cases hd : decode enc with
    | error r => simp [Safety.admitted, hd, Except.toOption] at he
    | ok i =>
      obtain ⟨f, hexec, -⟩ := exec_onCore i
      have hstep := (step_host (nextTurn_issue hbus hr hd)).trans (hexec (takeEvent rest s))
      exact ⟨_, hstep, effect_schedule_busy (exec_effect (hexec (takeEvent rest s))) hb⟩

/-- Settles O54, by induction on the drawn delay: on its turn the engine completes the command; before that, the first
host event is a step that ends the command itself by a reset, or leaves it in flight with a smaller delay. -/
theorem acceptedCommandCompletes : Obligations.AcceptedCommandCompletes := by
  intro s hinv hl hadm
  induction hn : s.engineWait using Nat.strong_induction_on generalizing s with
  | h n ih =>
    rcases nextTurn_inFlight hl with hturn | ⟨e, rest, hbus, hr, hpos⟩
    · exact ⟨1, _, by omega, run_succ (step_engine hturn) 0, engineStep_latOp s, engineStep_busy hl⟩
    · rw [hbus, List.all_cons, Bool.and_eq_true] at hadm
      obtain ⟨he, hrest⟩ := hadm
      obtain ⟨u, hstep, hbus', hwait⟩ := step_admitted_busy hbus hr he (hinv.busy_iff.mpr hl)
      have hinv' : Safety.Inv u := stepKeepsTheInvariants s u hinv hstep
      by_cases hlu : u.latOp = .none
      · have hidle : u.status.busy = false := by simpa [hlu] using hinv'.busy_iff
        exact ⟨1, u, by omega, run_succ hstep 0, hlu, hidle⟩
      · obtain ⟨k, t, hk, hrun, hdone⟩ := ih u.engineWait (by omega) u hinv' hlu (hbus' ▸ hrest) rfl
        exact ⟨k + 1, t, by omega, (run_succ hstep k).trans hrun, hdone⟩

end Sys2Proof.Machine

/-! The outcome of an instruction (60_exceptions.md): a next state always, with the host's sequence as it was. -/

namespace Sys2Proof.Machine

/-- A command takes nothing off the host's sequence. -/
@[simp] theorem perform_bus (c : Command) (s : State) : (perform c s).bus = s.bus := by cases c <;> rfl

/-- No effect of an instruction touches the host's sequence: the event was taken off it before. -/
theorem effect_bus {i : Instr} {s t : State} (he : Effect s i t) : t.bus = s.bus := by
  cases he with
  | command _ c => exact perform_bus c s
  | _ => rfl

/-- Settles O59: an instruction is an operation on the core, so it has no fault and no refusal (R220, R231), and the next
state it answers is one of its effects. -/
theorem everyInstructionAnswersNext : Obligations.EveryInstructionAnswersNext := by
  intro i s
  obtain ⟨f, hexec, -⟩ := exec_onCore i
  exact ⟨f s, hexec s, effect_bus (exec_effect (hexec s))⟩

end Sys2Proof.Machine
